-- ==== Sys2Proof/Word.lean ====
section
/-! DEFINITION. The words of the PCE block (spec R5, R7, R45) and its two two-valued enumerations. -/

namespace Sys2Proof

/-- One command word (R45). -/
abbrev Word16 := BitVec 16

/-- A byte, also the operand field `OPD` of a command (R5, R45). -/
abbrev Byte := BitVec 8

/-- A 5-bit symbol (R5, R9). -/
abbrev Sym := BitVec 5

/-- A polymod state, a generator entry, a variant constant, the data field of a response (R5, R48). -/
abbrev Word30 := BitVec 30

/-- The two checksum variants (R2); "an explicit two-case enumeration consumed by both" directions (R78). -/
inductive Variant where
  /-- variant A (Bech32), index `k = 0` -/
  | a
  /-- variant B (Bech32m), index `k = 1` -/
  | b
deriving DecidableEq, Repr

/-- The direction of a conversion, the meaning of the one bit `RDIR` (R16). -/
inductive Dir where
  /-- 8→5, bytes in and symbols out, `RDIR = 0` -/
  | eightToFive
  /-- 5→8, symbols in and bytes out, `RDIR = 1` -/
  | fiveToEight
deriving DecidableEq, Repr

end Sys2Proof
end

