-- ==== Sys2Proof/Config.lean ====
section
/-! DEFINITION. The parameters of a block instance (spec R6, R21), as one record. Their default values stand in
Sys2Proof/Machine/Params.lean; claims quantify over the record or fix the defaults. -/

namespace Sys2Proof

/-- The parameters of the model, "each a field of its configuration record" (R6). The first nine are the read-only
constants that `RDREG` shows (R21, R31), `versionMax` is the bound of `PFINV` and `PVFYV`. -/
structure Config where
  /-- `GEN[0]` -/
  gen0 : Word30
  /-- `GEN[1]` -/
  gen1 : Word30
  /-- `GEN[2]` -/
  gen2 : Word30
  /-- `GEN[3]` -/
  gen3 : Word30
  /-- `GEN[4]` -/
  gen4 : Word30
  /-- `K[0]`, the constant of variant A -/
  ka : Word30
  /-- `K[1]`, the constant of variant B -/
  kb : Word30
  /-- `CHK_INIT`, the initial polymod state -/
  chkInit : Word30
  /-- `STRICT_PAD` (R94), bit 0 of the configuration word `CFG` (R21) -/
  strictPad : Bool
  /-- `VERSION_MAX`, the largest witness version -/
  versionMax : Nat
deriving DecidableEq, Repr

end Sys2Proof
end

