-- ==== Sys2Proof/Syntax.lean ====
section
/-! DEFINITION. The thirteen commands of the block (spec R46), one constructor for each row of the opcode map. -/

namespace Sys2Proof

/-- The commands of R46. An operand is kept in the form R47 gives it: nothing, a two-valued enumeration, all of
`OPD`, or a register number. -/
inductive Instr where
  /-- `NOP` (R105) -/
  | nop
  /-- `PINIT` (R70) -/
  | pinit
  /-- `PSYM v`, `v = OPD`; the range of `v` is checked when the command executes (R47 (c), R71) -/
  | psym (v : Byte)
  /-- `PHRPH c`, `c = OPD` (R72) -/
  | phrph (c : Byte)
  /-- `PHRPL c`, `c = OPD` (R73) -/
  | phrpl (c : Byte)
  /-- `PFIN k`, `k = OPD[0]` (R74) -/
  | pfin (k : Variant)
  /-- `PVFY k`, `k = OPD[0]` (R75) -/
  | pvfy (k : Variant)
  /-- `PFINV ver`, `ver = OPD`; the range is checked when the command executes (R47 (c), R76) -/
  | pfinv (ver : Byte)
  /-- `PVFYV ver`, `ver = OPD`; the range is checked when the command executes (R47 (c), R77) -/
  | pvfyv (ver : Byte)
  /-- `RINIT d`, `d = OPD[0]` (R88) -/
  | rinit (d : Dir)
  /-- `RPUSH v`, `v = OPD`; a byte or a symbol as `RDIR` says (R89, R90) -/
  | rpush (v : Byte)
  /-- `RFLUSH` (R91, R92) -/
  | rflush
  /-- `RDREG n`, `n = OPD[3:0]` (R106); well formed when `n` is at most 12 -/
  | rdreg (n : BitVec 4)
deriving DecidableEq, Repr

end Sys2Proof
end

