-- ==== Sys2Proof/WellFormed.lean ====
section
/-! DEFINITION. Which terms of `Instr` are commands of the block (spec R46, column "further condition"). -/

namespace Sys2Proof

/-- The one condition the types do not already carry: a register number of `RDREG` is at most 12 (R46, R47 (e)).
`PSYM 32`, `PFINV 17` and the like are well formed: they are legal words whose data is rejected (R47 (c)). -/
def Instr.wf : Instr → Bool
  | .nop => true
  | .pinit => true
  | .psym _ => true
  | .phrph _ => true
  | .phrpl _ => true
  | .pfin _ => true
  | .pvfy _ => true
  | .pfinv _ => true
  | .pvfyv _ => true
  | .rinit _ => true
  | .rpush _ => true
  | .rflush => true
  | .rdreg n => decide (n.toNat ≤ 12)

end Sys2Proof
end

