-- ==== Sys2Proof/Decode.lean ====
section
/-! DEFINITION. Command words to commands and back (spec R45 to R51). The decoder is total: every one of the 65536
words is one legal command or is rejected under a name (R49); it needs no state (R45). -/

namespace Sys2Proof

/-- Why a word is illegal, one name for each clause of R49. The block answers all of them alike (`ILLEGAL`). -/
inductive IllegalWord where
  /-- `RSV != 0` -/
  | reservedField
  /-- `OPC` is 0xD, 0xE or 0xF (R50) -/
  | reservedOpcode
  /-- `OPC` is 0x0, 0x1 or 0xB and `OPD != 0` -/
  | operandNotZero
  /-- `OPC` is 0x5, 0x6 or 0x9 and `OPD > 1` -/
  | operandAboveOne
  /-- `OPC` is 0xC and `OPD > 12` -/
  | registerAboveTwelve
deriving DecidableEq, Repr

/-- `OPC`, bits 15:12 (R45). -/
def opcField (w : Word16) : BitVec 4 := w.extractLsb' 12 4

/-- `RSV`, bits 11:8 (R45). -/
def rsvField (w : Word16) : BitVec 4 := w.extractLsb' 8 4

/-- `OPD`, bits 7:0 (R45). -/
def opdField (w : Word16) : Byte := w.extractLsb' 0 8

/-- Operand form (a) of R47: no operand, `OPD` must be 0. -/
def noOperand (opd : Byte) (i : Instr) : Except IllegalWord Instr :=
  if opd = 0#8 then .ok i else .error .operandNotZero

/-- The bit `OPD[0]` as a variant index: 0 is A, 1 is B (R2, R46). -/
def variantOfBit (bit : Bool) : Variant := if bit then .b else .a

/-- The variant index `k` of a variant (R2). -/
def variantIndex : Variant → BitVec 1
  | .a => 0#1
  | .b => 1#1

/-- The bit `OPD[0]` as a direction: 0 is 8→5, 1 is 5→8 (R16, R46). -/
def dirOfBit (bit : Bool) : Dir := if bit then .fiveToEight else .eightToFive

/-- The one bit of `RDIR` (R16). -/
def dirBit : Dir → BitVec 1
  | .eightToFive => 0#1
  | .fiveToEight => 1#1

/-- Operand form (b) of R47: a two-valued enumeration in `OPD[0]`, `OPD[7:1]` must be 0. -/
def bitOperand (opd : Byte) (i : Bool → Instr) : Except IllegalWord Instr :=
  if opd.toNat ≤ 1 then .ok (i (opd.getLsbD 0)) else .error .operandAboveOne

/-- Operand form (e) of R47: a register number in `OPD[3:0]`, `OPD[7:4]` must be 0 and the number at most 12. -/
def regOperand (opd : Byte) : Except IllegalWord Instr :=
  if opd.toNat ≤ 12 then .ok (.rdreg (opd.extractLsb' 0 4)) else .error .registerAboveTwelve

/-- The opcode map (R46) on the two fields that are left when `RSV` is 0. -/
def decodeFields (opc : BitVec 4) (opd : Byte) : Except IllegalWord Instr :=
  match opc.toNat with
  | 0x0 => noOperand opd .nop
  | 0x1 => noOperand opd .pinit
  | 0x2 => .ok (.psym opd)
  | 0x3 => .ok (.phrph opd)
  | 0x4 => .ok (.phrpl opd)
  | 0x5 => bitOperand opd fun k => .pfin (variantOfBit k)
  | 0x6 => bitOperand opd fun k => .pvfy (variantOfBit k)
  | 0x7 => .ok (.pfinv opd)
  | 0x8 => .ok (.pvfyv opd)
  | 0x9 => bitOperand opd fun d => .rinit (dirOfBit d)
  | 0xA => .ok (.rpush opd)
  | 0xB => noOperand opd .rflush
  | 0xC => regOperand opd
  | _ => .error .reservedOpcode

/-- The decoder (R46, R49): the word's command, or the clause of R49 that makes the word illegal. -/
def decode (w : Word16) : Except IllegalWord Instr :=
  if rsvField w = 0#4 then decodeFields (opcField w) (opdField w) else .error .reservedField

/-- The word with `OPC` in bits 15:12, zero in bits 11:8 and the operand in bits 7:0 (R45, R52). -/
def assembleWord (opc : BitVec 4) (opd : Byte) : Word16 := opc ++ 0#4 ++ opd

/-- The word of a command (R46). -/
def encode : Instr → Word16
  | .nop => assembleWord 0x0#4 0#8
  | .pinit => assembleWord 0x1#4 0#8
  | .psym v => assembleWord 0x2#4 v
  | .phrph c => assembleWord 0x3#4 c
  | .phrpl c => assembleWord 0x4#4 c
  | .pfin k => assembleWord 0x5#4 ((variantIndex k).setWidth 8)
  | .pvfy k => assembleWord 0x6#4 ((variantIndex k).setWidth 8)
  | .pfinv ver => assembleWord 0x7#4 ver
  | .pvfyv ver => assembleWord 0x8#4 ver
  | .rinit d => assembleWord 0x9#4 ((dirBit d).setWidth 8)
  | .rpush v => assembleWord 0xA#4 v
  | .rflush => assembleWord 0xB#4 0#8
  | .rdreg n => assembleWord 0xC#4 (n.setWidth 8)

/-- The host's question about one row of the opcode table: the command read from a word whose low `nbits` bits are
`w`'s and whose other bits are 0. A command is one 16-bit word (R45, R51), so a value that does not fit in 16 bits is
no word of the block. -/
def decodeTableWord (nbits w : Nat) : Option Instr :=
  let v := w % 2 ^ nbits
  if v < 2 ^ 16 then
    match decode (BitVec.ofNat 16 v) with
    | .ok i => some i
    | .error _ => none
  else none

end Sys2Proof
end

