-- ==== Sys2Proof/Machine/Params.lean ====
section
/-! DEFINITION. The parameter values of the block that stands at reset (spec R6) and the constant a variant selects. -/

namespace Sys2Proof

/-- The values of R6's table. PRESUMED (the spec's own mark "from general knowledge, not in source"): `gen0` to
`gen4` (log 5) and `chkInit` (log 6). DESIGN CHOICE of the spec (D17): `strictPad` (log 8). All three unsafe for a claim
that uses the values; claims quantify over `Config` wherever the rule does. -/
def Config.default : Config where
  gen0 := 0x3b6a57b2#30
  gen1 := 0x26508e6d#30
  gen2 := 0x1ea119fa#30
  gen3 := 0x3d4233dd#30
  gen4 := 0x2a1462b3#30
  ka := 0x00000001#30
  kb := 0x2bc830a3#30
  chkInit := 0x00000001#30
  strictPad := false
  versionMax := 16

/-- `K[k]`, the variant constant (R2, R6). -/
def Config.k (c : Config) : Variant → Word30
  | .a => c.ka
  | .b => c.kb

/-- The constant `CFG` as `RDREG 12` shows it: bit 0 is `STRICT_PAD`, the other bits are 0 (R21, R31). -/
def Config.cfgWord (c : Config) : Word30 := (BitVec.ofBool c.strictPad).setWidth 30

end Sys2Proof
end

