-- ==== Sys2Proof/Machine/State.lean ====
section
/-! DEFINITION. The state of the block as plain data (spec R10), the responses it gives (R48), the events the host
presents (R42, R170), and the state after reset (R26). -/

namespace Sys2Proof.Machine

/-- The cause of a response (R150). Codes 8 to 15 are never produced, so they have no name here. -/
inductive Cause where
  /-- code 0: success -/
  | ok
  /-- code 1: the word is not a legal command (R49) -/
  | illegal
  /-- code 2: an input that must be a 5-bit symbol is above 31 -/
  | symRange
  /-- code 3: a bit left over at the end of a 5→8 conversion is 1 -/
  | padNonzero
  /-- code 4: the polymod state is not the variant constant -/
  | checksum
  /-- code 5: the witness version operand is above `VERSION_MAX` -/
  | version
  /-- code 6: the unit is in the failed state and ignores the command -/
  | failed
  /-- code 7: five or more bits are left over at the end of a 5→8 conversion, under `STRICT_PAD` -/
  | padExcess
deriving DecidableEq, Repr

/-- One response of the block, the three fields of `RSP36` (R48). -/
@[ext]
structure Response where
  /-- bits 35:32 -/
  cause : Cause
  /-- bits 31:30, the number of output units in `data` -/
  cnt : BitVec 2
  /-- bits 29:0 -/
  data : Word30
deriving DecidableEq, Repr

/-- What can reach the block from outside: a command word on the port (R42) or a reset (R170). -/
inductive HostEvent where
  /-- the host presents a 16-bit word, legal or not (R180) -/
  | command (w : Word16)
  /-- reset, "an event from outside the block, not a command" (R170) -/
  | reset
deriving DecidableEq, Repr

/-- The two units (R1). -/
inductive PceUnit where
  /-- the P-unit, the polymod checksum engine -/
  | p
  /-- the R-unit, the bit regrouper -/
  | r
deriving DecidableEq, Repr

/-- The eight registers of R10, each under its own name; the constants of the block instance (R21, log 2); and the two
sides of the command port, the model's own fields (log 1). -/
@[ext]
structure State where
  /-- the constants of this block instance; no command writes them (R21) -/
  cfg : Config
  /-- `CHK`, the polymod state (R11) -/
  chk : Word30
  /-- `PFAIL`, the P-unit is in the failed state (R12) -/
  pfail : Bool
  /-- `PCAUSE`, the cause of the P-unit's first failure, else 0 (R13) -/
  pcause : BitVec 4
  /-- `ACC`, the residual bits, right-aligned (R14) -/
  acc : BitVec 7
  /-- `BITS`, how many residual bits `ACC` holds (R15) -/
  bits : BitVec 3
  /-- `RDIR`, the direction of the conversion (R16) -/
  rdir : Dir
  /-- `RFAIL`, the R-unit is in the failed state (R17) -/
  rfail : Bool
  /-- `RCAUSE`, the cause of the R-unit's first failure, else 0 (R18) -/
  rcause : BitVec 4
  /-- the model's own: what the host will present, first to last (R42, R181) -/
  input : List HostEvent
  /-- the model's own: the responses given so far, first to last (R48, R181) -/
  output : List Response
deriving DecidableEq, Repr

/-- Reasons the machine stops with a fault. There are none: "every word has a defined response and a defined next
state" (R180), and a failure of the block is a response (R150). Nobody raises a fault, so the type is empty. -/
inductive Fault where
deriving DecidableEq, Repr

/-- Reasons an instruction has no meaning in the model. -/
inductive Refusal where
  /-- an arm of `exec` not written yet; no arm raises it. Safe: the machine would stop where the block goes on. -/
  | notModelled (mnemonic : String)
deriving DecidableEq, Repr

/-- The block right after reset (R26), with the default parameters (R6), before the host has presented anything
and before any response (log 1, log 4). -/
def State.reset : State where
  cfg := Config.default
  chk := Config.default.chkInit
  pfail := false
  pcause := 0#4
  acc := 0#7
  bits := 0#3
  rdir := .eightToFive
  rfail := false
  rcause := 0#4
  input := []
  output := []

end Sys2Proof.Machine
end

