-- ==== Sys2Proof/Machine/Operands.lean ====
section
/-! DEFINITION. Every operand form of the commands (spec R7, R36, R47, R78) and the slices and packings of values the
rules use. -/

namespace Sys2Proof.Machine

/-- `v[hi:lo]` of a natural number, R7's slice: bits `hi` down to `lo`, both included. -/
def sliceNat (v hi lo : Nat) : Nat := (v >>> lo) % 2 ^ (hi + 1 - lo)

/-- `OPD[4:0]` as a symbol (R71, R73, R90). -/
def lowSym (opd : Byte) : Sym := opd.extractLsb' 0 5

/-- The high part of an hrp character, `zext_5(OPD[7:5])` (R36, R72). -/
def hrpHigh (c : Byte) : Sym := (c.extractLsb' 5 3).setWidth 5

/-- The low part of an hrp character, `OPD[4:0]` (R36, R73). -/
def hrpLow (c : Byte) : Sym := lowSym c

/-- `OPD > 31`: the operand is not a 5-bit symbol (R47 (c), R71, R90). -/
def aboveSym (opd : Byte) : Bool := decide (31 < opd.toNat)

/-- `OPD > VERSION_MAX`: the operand is not a witness version (R47 (c), R76, R77). -/
def aboveVersion (c : Config) (ver : Byte) : Bool := decide (c.versionMax < ver.toNat)

/-- `variant_of_version` (R78): 0 is variant A, every version from 1 on is variant B. -/
def variantOfVersion (ver : Byte) : Variant := if ver = 0#8 then .a else .b

/-- A symbol zero-extended to an 8-bit output unit or operand (R37). -/
def symByte (v : Sym) : Byte := v.setWidth 8

/-- `data` of a response that carries no output unit. -/
def packNone : Word30 := 0#30

/-- `data` of a response with one output unit: `out0` in `data[7:0]` (R37). -/
def packOne (out0 : Byte) : Word30 := out0.setWidth 30

/-- `data` of a response with two output units: `out0` in `data[7:0]`, `out1` in `data[15:8]` (R37). -/
def packTwo (out0 out1 : Byte) : Word30 := (out1 ++ out0).setWidth 30

end Sys2Proof.Machine
end

