-- ==== Sys2Proof/Machine/Flags.lean ====
section
/-! DEFINITION. The fail flags and cause registers (spec R12, R13, R17, R18), the cause codes (R150) and the status
views PSTAT and RSTAT (R22, R23). The block has no other flags (R25). -/

namespace Sys2Proof.Machine

/-- The 4-bit code of a cause (R150). -/
def Cause.code : Cause → BitVec 4
  | .ok => 0#4
  | .illegal => 1#4
  | .symRange => 2#4
  | .padNonzero => 3#4
  | .checksum => 4#4
  | .version => 5#4
  | .failed => 6#4
  | .padExcess => 7#4

/-- The fail flag of a unit: `PFAIL` or `RFAIL` (R156). -/
def State.failFlag (s : State) : PceUnit → Bool
  | .p => s.pfail
  | .r => s.rfail

/-- The cause register of a unit: `PCAUSE` or `RCAUSE` (R156). -/
def State.causeReg (s : State) : PceUnit → BitVec 4
  | .p => s.pcause
  | .r => s.rcause

/-- `UFAIL <- f; UCAUSE <- c` (R156 and, cleared, R70 and R88). -/
def State.setFail (s : State) (u : PceUnit) (f : Bool) (c : BitVec 4) : State :=
  match u with
  | .p => { s with pfail := f, pcause := c }
  | .r => { s with rfail := f, rcause := c }

/-- `PSTAT` (R22): `PFAIL` in bit 0, `PCAUSE` in bits 7:4, the other bits 0. -/
def State.pstat (s : State) : Word30 := (s.pcause ++ 0#3 ++ BitVec.ofBool s.pfail).setWidth 30

/-- `RSTAT` (R23): `RFAIL` in bit 0, `RDIR` in bit 1, `RCAUSE` in bits 7:4, `BITS` in bits 10:8, the other bits 0. -/
def State.rstat (s : State) : Word30 :=
  (s.bits ++ s.rcause ++ 0#2 ++ dirBit s.rdir ++ BitVec.ofBool s.rfail).setWidth 30

end Sys2Proof.Machine
end

