-- ==== Sys2Proof/Machine/Ops.lean ====
section
/-! DEFINITION. The named operations every meaning is made of: giving a response (spec R48), failure entry, which is
the block's only exception (R156), the failed state (R158) and the return from it (R159), the register-number space of
RDREG (R31), the answer to an illegal word (R49), and reset (R26). -/

namespace Sys2Proof.Machine

/-- `respond(cause, cnt, data)` (R8, R48): the one response of the command. -/
def respond (cause : Cause) (cnt : BitVec 2) (data : Word30) (s : State) : State :=
  { s with output := s.output ++ [{ cause := cause, cnt := cnt, data := data }] }

/-- The response of a command that succeeds and returns nothing, `respond(OK, 0, 0)`. -/
def respondOk (s : State) : State := respond .ok 0#2 0#30 s

/-- Failure entry, `raise C` (R8, R156): the unit's fail flag and cause register are written and the response carries
the cause; nothing is saved, control goes nowhere (R157), and no other register changes. -/
def raiseFailure (u : PceUnit) (c : Cause) (s : State) : State :=
  respond c 0#2 0#30 (s.setFail u true c.code)

/-- The return from the failed state (R159): the flag and the cause of the unit are cleared. `PINIT` and `RINIT` do it
beside putting the unit's data registers at their initial values. -/
def clearFailure (u : PceUnit) (s : State) : State := s.setFail u false 0#4

/-- A data command of unit `u` (R154 (2), R158): in the failed state it answers `FAILED` and changes no register,
else it does what `body` says. -/
def unlessFailed (u : PceUnit) (s : State) (body : State) : Host.Outcome State Fault Refusal :=
  if s.failFlag u then .next (respond .failed 0#2 0#30 s) else .next body

/-- The answer to an illegal word (R49, R161): `respond(ILLEGAL, 0, 0)`, no register changes. -/
def answerIllegal (s : State) : State := respond .illegal 0#2 0#30 s

/-- `x[n]`, the register-number space of `RDREG` (R31); numbers 13 to 15 name nothing. -/
def readReg (s : State) (n : BitVec 4) : Option Word30 :=
  match n.toNat with
  | 0 => some s.pstat
  | 1 => some s.chk
  | 2 => some s.rstat
  | 3 => some (s.acc.setWidth 30)
  | 4 => some s.cfg.gen0
  | 5 => some s.cfg.gen1
  | 6 => some s.cfg.gen2
  | 7 => some s.cfg.gen3
  | 8 => some s.cfg.gen4
  | 9 => some s.cfg.ka
  | 10 => some s.cfg.kb
  | 11 => some s.cfg.chkInit
  | 12 => some s.cfg.cfgWord
  | _ => none

/-- Reset of a block in use (R26, R170): every register at its value after reset, no response. The constants are no
state and stay (D20); what the host has still to present and the responses already given are not the block's. -/
def resetBlock (s : State) : State :=
  { s with
    chk := s.cfg.chkInit, pfail := false, pcause := 0#4,
    acc := 0#7, bits := 0#3, rdir := .eightToFive, rfail := false, rcause := 0#4 }

/-- The 36-bit word of a response (R48). -/
def Response.word (r : Response) : BitVec 36 := r.cause.code ++ r.cnt ++ r.data

/-- The output units a response carries, first to last (R37). -/
def Response.units (r : Response) : List Byte :=
  if r.cnt = 1#2 then [r.data.extractLsb' 0 8]
  else if r.cnt = 2#2 then [r.data.extractLsb' 0 8, r.data.extractLsb' 8 8]
  else []

end Sys2Proof.Machine
end

