-- ==== Sys2Proof/Machine/Polymod.lean ====
section
/-! DEFINITION. The pure functions of the P-unit (spec R35, R60 to R65), for every value of the generator table and of
the initial state. -/

namespace Sys2Proof.Machine

/-- One generator entry, folded in exactly when its bit of `top` is 1 (R61). -/
def genTerm (bit : Bool) (g : Word30) : Word30 := if bit then g else 0#30

/-- The folded term of a step: bit `i` of `top` chooses `GEN[i]` (R61). -/
def genFold (c : Config) (top : BitVec 5) : Word30 :=
  genTerm (top.getLsbD 0) c.gen0 ^^^ genTerm (top.getLsbD 1) c.gen1 ^^^ genTerm (top.getLsbD 2) c.gen2
    ^^^ genTerm (top.getLsbD 3) c.gen3 ^^^ genTerm (top.getLsbD 4) c.gen4

/-- `polymod_step(c, v)` (R61). PRESUMED (the spec's own mark, G3, log 7): which bits are shifted, which choose the
entries, where the symbol enters. Unsafe where a claim needs the values, not only the structure. -/
def polymodStep (c : Config) (chk : Word30) (v : Sym) : Word30 :=
  let top := chk.extractLsb' 25 5
  let s : Word30 := chk.extractLsb' 0 25 ++ v
  s ^^^ genFold c top

/-- Stepping through a list of symbols from a given state, `fold(c, vals)` of R66. -/
def polymodFold (c : Config) (chk : Word30) (vals : List Sym) : Word30 := vals.foldl (polymodStep c) chk

/-- `polymod(vals)` (R62). -/
def polymod (c : Config) (vals : List Sym) : Word30 := polymodFold c c.chkInit vals

/-- `hrp_expand(h)` (R63): the high parts, one zero, the low parts. -/
def hrpExpand (h : List Byte) : List Sym := h.map hrpHigh ++ [0#5] ++ h.map hrpLow

/-- The six symbols of a 30-bit checksum, first to last (R35). -/
def checksumSymbols (m : Word30) : List Sym :=
  [m.extractLsb' 25 5, m.extractLsb' 20 5, m.extractLsb' 15 5, m.extractLsb' 10 5, m.extractLsb' 5 5, m.extractLsb' 0 5]

/-- The six placeholder zero symbols (R64, R111). -/
def sixZeros : List Sym := List.replicate 6 0#5

/-- The 30-bit `m` of `checksum_create` (R64). -/
def checksumValue (c : Config) (h : List Byte) (d : List Sym) (k : Variant) : Word30 :=
  polymod c (hrpExpand h ++ d ++ sixZeros) ^^^ c.k k

/-- `checksum_create(h, d, k)` (R64). -/
def checksumCreate (c : Config) (h : List Byte) (d : List Sym) (k : Variant) : List Sym :=
  checksumSymbols (checksumValue c h d k)

/-- `checksum_verify(h, dc, k)` (R65). -/
def checksumVerify (c : Config) (h : List Byte) (dc : List Sym) (k : Variant) : Bool :=
  decide (polymod c (hrpExpand h ++ dc) = c.k k)

end Sys2Proof.Machine
end

