-- ==== Sys2Proof/Machine/PUnit.lean ====
section
/-! DEFINITION. The meanings of the P-unit's commands PINIT, PSYM, PHRPH, PHRPL, PFIN, PVFY, PFINV, PVFYV (spec R70 to
R77). -/

namespace Sys2Proof.Machine

/-- Consume one symbol: `CHK <- polymod_step(CHK, v); respond(OK, 0, 0)`, the common tail of R71, R72, R73. -/
def stepChk (v : Sym) (s : State) : State := respondOk { s with chk := polymodStep s.cfg s.chk v }

/-- Give out `CHK ^ K[k]`, the common tail of R74 and R76; `CHK` stays (D27). -/
def finish (k : Variant) (s : State) : State := respond .ok 0#2 (s.chk ^^^ s.cfg.k k) s

/-- Compare `CHK` with `K[k]`, the common tail of R75 and R77; `CHK` stays. -/
def verify (k : Variant) (s : State) : State :=
  if s.chk = s.cfg.k k then respondOk s else raiseFailure .p .checksum s

/-- `PINIT` (R70): also in the failed state, and the way out of it (R159). -/
def execPinit (s : State) : Host.Outcome State Fault Refusal :=
  .next (respondOk (clearFailure .p { s with chk := s.cfg.chkInit }))

/-- `PSYM v` (R71). -/
def execPsym (v : Byte) (s : State) : Host.Outcome State Fault Refusal :=
  unlessFailed .p s (if aboveSym v then raiseFailure .p .symRange s else stepChk (lowSym v) s)

/-- `PHRPH c` (R72). -/
def execPhrph (c : Byte) (s : State) : Host.Outcome State Fault Refusal :=
  unlessFailed .p s (stepChk (hrpHigh c) s)

/-- `PHRPL c` (R73). -/
def execPhrpl (c : Byte) (s : State) : Host.Outcome State Fault Refusal :=
  unlessFailed .p s (stepChk (hrpLow c) s)

/-- `PFIN k` (R74). -/
def execPfin (k : Variant) (s : State) : Host.Outcome State Fault Refusal :=
  unlessFailed .p s (finish k s)

/-- `PVFY k` (R75). -/
def execPvfy (k : Variant) (s : State) : Host.Outcome State Fault Refusal :=
  unlessFailed .p s (verify k s)

/-- `PFINV ver` (R76). -/
def execPfinv (ver : Byte) (s : State) : Host.Outcome State Fault Refusal :=
  unlessFailed .p s
    (if aboveVersion s.cfg ver then raiseFailure .p .version s else finish (variantOfVersion ver) s)

/-- `PVFYV ver` (R77): `FAILED`, then `VERSION`, then `CHECKSUM`. -/
def execPvfyv (ver : Byte) (s : State) : Host.Outcome State Fault Refusal :=
  unlessFailed .p s
    (if aboveVersion s.cfg ver then raiseFailure .p .version s else verify (variantOfVersion ver) s)

end Sys2Proof.Machine
end

