-- ==== Sys2Proof/Machine/Regroup.lean ====
section
/-! DEFINITION. The pure functions of the R-unit (spec R85, R86), over natural-number accumulators as R7 reads them,
and the bit-string form R85 and R86 give as equivalent. -/

namespace Sys2Proof.Machine

/-- An accumulator of a conversion under way: the residual bits as a number, how many they are, and the output. -/
structure Regroup (α : Type) where
  /-- `acc` -/
  acc : Nat
  /-- `bits` -/
  bits : Nat
  /-- `out` -/
  out : List α
deriving DecidableEq, Repr

/-- The loop `while bits >= 5` of R85. The first argument bounds the number of rounds: each round takes five bits, so
as many rounds as there are bits are enough. -/
def emitSyms : Nat → Regroup Sym → Regroup Sym
  | 0, g => g
  | rounds + 1, g =>
    if 5 ≤ g.bits then
      let bits := g.bits - 5
      emitSyms rounds
        { acc := g.acc &&& (2 ^ bits - 1), bits := bits, out := g.out ++ [BitVec.ofNat 5 (g.acc >>> bits)] }
    else g

/-- The body of the loop over the bytes of R85. -/
def takeByte (g : Regroup Sym) (b : Byte) : Regroup Sym :=
  let bits := g.bits + 8
  emitSyms bits { g with acc := (g.acc <<< 8) ||| b.toNat, bits := bits }

/-- The last, short group of R85, zeros added below it (R93, C2). -/
def lastSym (g : Regroup Sym) : List Sym :=
  if 0 < g.bits then [BitVec.ofNat 5 (g.acc <<< (5 - g.bits))] else []

/-- `regroup_8to5(b)` (R85). -/
def regroup8to5 (b : List Byte) : List Sym :=
  let g := b.foldl takeByte { acc := 0, bits := 0, out := [] }
  g.out ++ lastSym g

/-- The body of the loop over the symbols of R86, for a symbol in range. -/
def takeSym (g : Regroup Byte) (v : Nat) : Regroup Byte :=
  let acc := (g.acc <<< 5) ||| v
  let bits := g.bits + 5
  if 8 ≤ bits then
    { acc := acc &&& (2 ^ (bits - 8) - 1), bits := bits - 8, out := g.out ++ [BitVec.ofNat 8 (acc >>> (bits - 8))] }
  else { g with acc := acc, bits := bits }

/-- The loop of R86: a value above 31 fails the conversion. -/
def takeSyms : Regroup Byte → List Byte → Except Cause (Regroup Byte)
  | g, [] => .ok g
  | g, v :: rest => if aboveSym v then .error .symRange else takeSyms (takeSym g v.toNat) rest

/-- The checks after the loop of R86, in their order. -/
def closeBytes (strictPad : Bool) (g : Regroup Byte) : Except Cause (List Byte) :=
  if strictPad && decide (5 ≤ g.bits) then .error .padExcess
  else if g.acc ≠ 0 then .error .padNonzero
  else .ok g.out

/-- `regroup_5to8(s)` (R86), under a value of `STRICT_PAD`; on failure no bytes at all. -/
def regroup5to8 (strictPad : Bool) (s : List Byte) : Except Cause (List Byte) :=
  match takeSyms { acc := 0, bits := 0, out := [] } s with
  | .error c => .error c
  | .ok g => closeBytes strictPad g

/-- A value of `w` bits as a bit string, most significant bit first (R33). -/
def bitString {w : Nat} (v : BitVec w) : List Bool := (List.range w).map fun i => v.getMsbD i

/-- The number a bit string writes, first bit most significant. -/
def bitsToNat (l : List Bool) : Nat := l.foldl (fun n b => 2 * n + b.toNat) 0

/-- Cut a bit string into groups of `n` from the front; a shorter rest is dropped. The first argument bounds the
number of groups. -/
def cutGroups (n : Nat) : Nat → List Bool → List (List Bool)
  | 0, _ => []
  | groups + 1, l => if n ≤ l.length then l.take n :: cutGroups n groups (l.drop n) else []

/-- R85's equivalent form: one bit string, zero bits appended up to a multiple of 5, groups of 5 from the front. -/
def regroup8to5Bits (b : List Byte) : List Sym :=
  let l := b.flatMap bitString
  let padded := l ++ List.replicate ((5 - l.length % 5) % 5) false
  (cutGroups 5 padded.length padded).map fun g => BitVec.ofNat 5 (bitsToNat g)

/-- R86's equivalent form for a list of symbols under `STRICT_PAD = false`: groups of 8 from the front, and the bits
left over must all be 0. -/
def regroup5to8Bits (s : List Sym) : Except Cause (List Byte) :=
  let l := s.flatMap bitString
  if (l.drop (8 * (l.length / 8))).all (fun b => !b) then
    .ok ((cutGroups 8 l.length l).map fun g => BitVec.ofNat 8 (bitsToNat g))
  else .error .padNonzero

end Sys2Proof.Machine
end

