-- ==== Sys2Proof/Machine/RUnit.lean ====
section
/-! DEFINITION. The meanings of the R-unit's commands RINIT, RPUSH, RFLUSH (spec R88 to R92). The formulas are over
natural numbers, as R7 reads shifts, and are narrowed to the registers' widths at the end; in states no run reaches
(`ACC >= 2^BITS`, or `BITS > 4` in direction 8→5) the narrowing is the model's choice (DESIGN CHOICE, log 9, unsafe only
there). -/

namespace Sys2Proof.Machine

/-- `ACC <- t & (2^n - 1); BITS <- n` (R89, R90). -/
def setResidual (t n : Nat) (s : State) : State :=
  { s with acc := BitVec.ofNat 7 (t &&& (2 ^ n - 1)), bits := BitVec.ofNat 3 n }

/-- `ACC <- 0; BITS <- 0` (R88, R91, R92). -/
def clearResidual (s : State) : State := { s with acc := 0#7, bits := 0#3 }

/-- An output unit, zero-extended to 8 bits (R37). -/
def outUnit (v : Nat) : Byte := BitVec.ofNat 8 v

/-- `RPUSH v` in direction 8→5, in a unit that is not failed (R89). -/
def pushByte (v : Byte) (s : State) : State :=
  let t := (s.acc.toNat <<< 8) ||| v.toNat
  let n := s.bits.toNat + 8
  let out0 := sliceNat t (n - 1) (n - 5)
  if 10 ≤ n then
    let out1 := sliceNat t (n - 6) (n - 10)
    respond .ok 2#2 (packTwo (outUnit out0) (outUnit out1)) (setResidual t (n - 10) s)
  else respond .ok 1#2 (packOne (outUnit out0)) (setResidual t (n - 5) s)

/-- `RPUSH v` in direction 5→8, in a unit that is not failed, `v` a symbol (R90). -/
def pushSym (v : Sym) (s : State) : State :=
  let t := (s.acc.toNat <<< 5) ||| v.toNat
  let n := s.bits.toNat + 5
  if 8 ≤ n then respond .ok 1#2 (packOne (outUnit (sliceNat t (n - 1) (n - 8)))) (setResidual t (n - 8) s)
  else respond .ok 0#2 packNone (setResidual t n s)

/-- `RFLUSH` in direction 8→5, in a unit that is not failed (R91): the residual bits are the high bits of the last
symbol (R93). -/
def flushSyms (s : State) : State :=
  if 0 < s.bits.toNat then
    respond .ok 1#2 (packOne (outUnit ((s.acc.toNat <<< (5 - s.bits.toNat)) &&& 31))) (clearResidual s)
  else respond .ok 0#2 packNone s

/-- `RFLUSH` in direction 5→8, in a unit that is not failed (R92): `PAD_EXCESS` before `PAD_NONZERO` (R154). -/
def flushBytes (s : State) : State :=
  if s.cfg.strictPad && decide (5 ≤ s.bits.toNat) then raiseFailure .r .padExcess s
  else if s.acc ≠ 0#7 then raiseFailure .r .padNonzero s
  else respondOk (clearResidual s)

/-- `RINIT d` (R88): also in the failed state, and the way out of it (R159). -/
def execRinit (d : Dir) (s : State) : Host.Outcome State Fault Refusal :=
  .next (respondOk (clearFailure .r { clearResidual s with rdir := d }))

/-- `RPUSH v` (R89, R90): one encoding, two behaviours chosen by `RDIR`. -/
def execRpush (v : Byte) (s : State) : Host.Outcome State Fault Refusal :=
  unlessFailed .r s
    (match s.rdir with
    | .eightToFive => pushByte v s
    | .fiveToEight => if aboveSym v then raiseFailure .r .symRange s else pushSym (lowSym v) s)

/-- `RFLUSH` (R91, R92): one encoding, two behaviours chosen by `RDIR`. -/
def execRflush (s : State) : Host.Outcome State Fault Refusal :=
  unlessFailed .r s
    (match s.rdir with
    | .eightToFive => flushSyms s
    | .fiveToEight => flushBytes s)

end Sys2Proof.Machine
end

