-- ==== Sys2Proof/Machine/System.lean ====
section
/-! DEFINITION. The meanings of the two commands that belong to neither unit, NOP and RDREG (spec R105, R106). -/

namespace Sys2Proof.Machine

/-- `NOP` (R105): answers `OK` whatever the fail flags are. -/
def execNop (s : State) : Host.Outcome State Fault Refusal := .next (respondOk s)

/-- `RDREG n` (R106): also in the failed state of either unit; changes no register. For the numbers 13 to 15, which no
decoded command has, the term stands for "an illegal command" (R31) and answers as one (log 10). -/
def execRdreg (n : BitVec 4) (s : State) : Host.Outcome State Fault Refusal :=
  match readReg s n with
  | some v => .next (respond .ok 0#2 v s)
  | none => .next (answerIllegal s)

end Sys2Proof.Machine
end

