-- ==== Sys2Proof/Machine/Dispatch.lean ====
section
/-! DEFINITION. The dispatch of the thirteen commands (spec R46) to their meanings. -/

namespace Sys2Proof.Machine

def exec (i : Instr) (s : State) : Host.Outcome State Fault Refusal :=
  match i with
  | .nop => Sys2Proof.Machine.execNop s
  | .pinit => Sys2Proof.Machine.execPinit s
  | .psym v => Sys2Proof.Machine.execPsym v s
  | .phrph c => Sys2Proof.Machine.execPhrph c s
  | .phrpl c => Sys2Proof.Machine.execPhrpl c s
  | .pfin k => Sys2Proof.Machine.execPfin k s
  | .pvfy k => Sys2Proof.Machine.execPvfy k s
  | .pfinv ver => Sys2Proof.Machine.execPfinv ver s
  | .pvfyv ver => Sys2Proof.Machine.execPvfyv ver s
  | .rinit d => Sys2Proof.Machine.execRinit d s
  | .rpush v => Sys2Proof.Machine.execRpush v s
  | .rflush => Sys2Proof.Machine.execRflush s
  | .rdreg n => Sys2Proof.Machine.execRdreg n s

end Sys2Proof.Machine
end

