-- ==== Sys2Proof/Machine/Port.lean ====
section
/-! DEFINITION. The command port (spec R42, R45, R49, R170): what the block does with one event of the host. -/

namespace Sys2Proof.Machine

/-- Execute one word (R42, R49): a legal word runs its command, an illegal one answers `ILLEGAL` and changes no
register; the test is on the word alone. -/
def executeWord (w : Word16) (s : State) : Host.Outcome State Fault Refusal :=
  match decode w with
  | .ok i => exec i s
  | .error _ => .next (answerIllegal s)

/-- What one event does to the block (R42, R170). -/
def serve (e : HostEvent) (s : State) : Host.Outcome State Fault Refusal :=
  match e with
  | .command w => executeWord w s
  | .reset => .next (resetBlock s)

/-- Take the host's next event, if there is one. "A block that has not been given a command does nothing and keeps its
registers" (R166). -/
def takeEvent (s : State) : Host.Outcome State Fault Refusal :=
  match s.input with
  | [] => .next s
  | e :: rest => serve e { s with input := rest }

/-- Put a word at the head of what the host presents. -/
def presentWord (w : Word16) (s : State) : State := { s with input := .command w :: s.input }

end Sys2Proof.Machine
end

