-- ==== Sys2Proof/Machine/Step.lean ====
section
/-! DEFINITION. One step of the machine (spec R42): the block takes the host's next event. -/

namespace Sys2Proof.Machine

/-- One step: the next command executed whole and answered, or a reset, or, with nothing presented, nothing. -/
def step (s : State) : Host.Outcome State Fault Refusal := takeEvent s

/-- `s` with the instruction of an opcode-table row presented next: the word's bits above `nbits` are 0. A command
is one 16-bit word (R45, R51). -/
def State.withFetchWord (s : State) (nbits w : Nat) : State := presentWord (BitVec.ofNat 16 (w % 2 ^ nbits)) s

end Sys2Proof.Machine
end

