-- ==== Sys2Proof/Machine/Sequences.lean ====
section
/-! DEFINITION. The pseudo-instructions and the command sequences a host runs (spec R53, R110 to R119). They add no
behaviour to the block: each is a list of commands. -/

namespace Sys2Proof.Machine

/-- `PSEP` (R110). -/
def pSep : List Instr := [.psym 0#8]

/-- `PZERO6` (R111). -/
def pZero6 : List Instr := List.replicate 6 (.psym 0#8)

/-- `PHRP "s"` (R112): the high parts, the separator, the low parts; the host presents the string twice. -/
def pHrp (h : List Byte) : List Instr := h.map .phrph ++ pSep ++ h.map .phrpl

/-- `PDATA [v0, ...]` (R113). A value above 31 is a legal word that fails when executed. -/
def pData (vs : List Byte) : List Instr := vs.map .psym

/-- `RSEQ [x0, ...]` (R116). -/
def rSeq (xs : List Byte) : List Instr := xs.map .rpush ++ [.rflush]

/-- `PINIT; PHRP h; PDATA d; PZERO6` and a finishing command (R114). -/
def createWith (h d : List Byte) (fin : Instr) : List Instr := [.pinit] ++ pHrp h ++ pData d ++ pZero6 ++ [fin]

/-- The sequence that creates a checksum under variant `k` (R114). -/
def createSeq (h d : List Byte) (k : Variant) : List Instr := createWith h d (.pfin k)

/-- The same with the variant of a witness version (R114). -/
def createSeqVersion (h d : List Byte) (ver : Byte) : List Instr := createWith h d (.pfinv ver)

/-- `PINIT; PHRP h; PDATA dc` and a verifying command (R115). -/
def verifyWith (h dc : List Byte) (vfy : Instr) : List Instr := [.pinit] ++ pHrp h ++ pData dc ++ [vfy]

/-- The sequence that verifies a checksum under variant `k` (R115). -/
def verifySeq (h dc : List Byte) (k : Variant) : List Instr := verifyWith h dc (.pvfy k)

/-- The same with the variant of a witness version (R115). -/
def verifySeqVersion (h dc : List Byte) (ver : Byte) : List Instr := verifyWith h dc (.pvfyv ver)

/-- `RINIT d; RSEQ x` (R117). -/
def convertSeq (d : Dir) (xs : List Byte) : List Instr := .rinit d :: rSeq xs

/-- The document's Encoder on the block (R118), first line: the host collects the symbols of the responses. -/
def encodeRegroup (prog : List Byte) : List Instr := convertSeq .eightToFive prog

/-- The document's Encoder on the block (R118), second line, with the symbols `p` the first line gave. -/
def encodeChecksum (h : List Byte) (ver : Byte) (p : List Byte) : List Instr := createSeqVersion h (ver :: p) ver

/-- The document's Decoder on the block (R119), first line: steps 6 and 7; the version is the first data value. -/
def decodeVerify (h dv : List Byte) : List Instr := verifySeqVersion h dv (dv.headD 0#8)

/-- The document's Decoder on the block (R119), second line: step 8 on `dv[1 .. len(dv) - 7]`, the symbols between the
version and the checksum. -/
def decodeRegroup (dv : List Byte) : List Instr := convertSeq .fiveToEight ((dv.drop 1).take (dv.length - 7))

/-- What the host presents to have a list of commands executed (R181). -/
def eventsOf (is : List Instr) : List HostEvent := is.map fun i => .command (encode i)

end Sys2Proof.Machine
end

