-- ==== Sys2Proof/Machine/Assembler.lean ====
section
/-! DEFINITION. The assembler's notation (spec R52, R53): program text, as a list of characters, to command words. What
R52 leaves open of a notation (white space, letter case, an empty statement) is in log 11. -/

namespace Sys2Proof.Machine

/-- Why the assembler refuses a text. -/
inductive AsmError where
  /-- a statement does not begin with a mnemonic of R46 or a pseudo-instruction of R53 -/
  | unknownMnemonic
  /-- the operand a statement has does not fit its mnemonic, or one is missing or too many -/
  | badOperand
  /-- an operand above 255 (R52) -/
  | operandAbove255
  /-- an operand that would make the word illegal under R49 (R52) -/
  | illegalOperand
  /-- a quote that is not closed on its line, or not printable -/
  | badQuote
deriving DecidableEq, Repr

/-- The pieces of a program text. -/
inductive Token where
  /-- a mnemonic, a number or an operand name -/
  | word (cs : List Char)
  /-- one printable character in single quotes -/
  | char (c : Char)
  /-- a string in double quotes -/
  | str (cs : List Char)
  /-- `[` -/
  | openList
  /-- `]` -/
  | closeList
  /-- `,` -/
  | comma
  /-- the end of a line or `;` -/
  | stop
deriving DecidableEq, Repr

/-- A character R52 lets stand in quotes: printable ASCII. -/
def printable (c : Char) : Bool := decide (32 ≤ c.toNat) && decide (c.toNat ≤ 126)

/-- Finish a pending word. -/
def flushWord (cur : List Char) (rest : List Token) : List Token :=
  if cur.isEmpty then rest else .word cur :: rest

/-- Where the scanner is in the text. -/
inductive ScanMode where
  /-- outside quotes and comments, with the word read so far -/
  | plain (cur : List Char)
  /-- in a comment, up to the end of the line -/
  | comment
  /-- in a string, with the characters read so far -/
  | str (cur : List Char)
  /-- just after an opening single quote -/
  | quoted
  /-- just after the character in single quotes -/
  | unquote (c : Char)
  /-- just after one `-`, with the word read before it -/
  | dash (cur : List Char)
deriving DecidableEq, Repr

/-- One character outside quotes and comments: the new mode and the tokens it finishes. -/
def scanPlain (cur : List Char) (c : Char) : ScanMode × List Token :=
  if c = '\n' || c = ';' then (.plain [], flushWord cur [.stop])
  else if c = ' ' || c = '\t' || c = '\r' then (.plain [], flushWord cur [])
  else if c = '[' then (.plain [], flushWord cur [.openList])
  else if c = ']' then (.plain [], flushWord cur [.closeList])
  else if c = ',' then (.plain [], flushWord cur [.comma])
  else if c = '\'' then (.quoted, flushWord cur [])
  else if c = '"' then (.str [], flushWord cur [])
  else if c = '-' then (.dash cur, [])
  else (.plain (cur ++ [c]), [])

/-- One character of the text. -/
def scanChar (m : ScanMode) (c : Char) : Except AsmError (ScanMode × List Token) :=
  match m with
  | .plain cur => .ok (scanPlain cur c)
  | .comment => .ok (if c = '\n' then (.plain [], [.stop]) else (.comment, []))
  | .str cur =>
    if c = '"' then .ok (.plain [], [.str cur])
    else if printable c then .ok (.str (cur ++ [c]), [])
    else .error .badQuote
  | .quoted => if printable c then .ok (.unquote c, []) else .error .badQuote
  | .unquote x => if c = '\'' then .ok (.plain [], [.char x]) else .error .badQuote
  | .dash cur => .ok (if c = '-' then (.comment, flushWord cur []) else scanPlain (cur ++ ['-']) c)

/-- The tokens of a text. -/
def scan : ScanMode → List Char → Except AsmError (List Token)
  | .plain cur, [] => .ok (flushWord cur [])
  | .comment, [] => .ok []
  | .dash cur, [] => .ok (flushWord (cur ++ ['-']) [])
  | .str _, [] => .error .badQuote
  | .quoted, [] => .error .badQuote
  | .unquote _, [] => .error .badQuote
  | m, c :: rest =>
    match scanChar m c with
    | .error e => .error e
    | .ok (m', ts) =>
      match scan m' rest with
      | .error e => .error e
      | .ok ts' => .ok (ts ++ ts')

/-- The value of a digit, in a base up to 16. -/
def digitValue (base : Nat) (c : Char) : Option Nat :=
  let v := if '0' ≤ c ∧ c ≤ '9' then c.toNat - 48
    else if 'a' ≤ c ∧ c ≤ 'f' then c.toNat - 87
    else if 'A' ≤ c ∧ c ≤ 'F' then c.toNat - 55
    else 16
  if v < base then some v else none

/-- The number a non-empty run of digits writes. -/
def digits (base : Nat) : List Char → Option Nat
  | [] => none
  | c :: cs =>
    (c :: cs).foldl (fun n d => match n, digitValue base d with | some n, some v => some (base * n + v) | _, _ => none)
      (some 0)

/-- A number of R52: decimal, or hexadecimal with the prefix `0x`. -/
def numberOf : List Char → Option Nat
  | '0' :: 'x' :: hex => digits 16 hex
  | cs => digits 10 cs

/-- What operand a mnemonic takes (R46, R52). -/
inductive OperandKind where
  /-- none -/
  | none
  /-- a number -/
  | number
  /-- a number or one character in single quotes -/
  | character
  /-- a number, or `A` for 0, `B` for 1 -/
  | variant
  /-- a number, or `8TO5` for 0, `5TO8` for 1 -/
  | direction
deriving DecidableEq, Repr

/-- The mnemonics of R46 with their opcodes and operand kinds. -/
def mnemonics : List (List Char × BitVec 4 × OperandKind) :=
  [ (['N', 'O', 'P'], 0x0#4, .none),
    (['P', 'I', 'N', 'I', 'T'], 0x1#4, .none),
    (['P', 'S', 'Y', 'M'], 0x2#4, .number),
    (['P', 'H', 'R', 'P', 'H'], 0x3#4, .character),
    (['P', 'H', 'R', 'P', 'L'], 0x4#4, .character),
    (['P', 'F', 'I', 'N'], 0x5#4, .variant),
    (['P', 'V', 'F', 'Y'], 0x6#4, .variant),
    (['P', 'F', 'I', 'N', 'V'], 0x7#4, .number),
    (['P', 'V', 'F', 'Y', 'V'], 0x8#4, .number),
    (['R', 'I', 'N', 'I', 'T'], 0x9#4, .direction),
    (['R', 'P', 'U', 'S', 'H'], 0xA#4, .number),
    (['R', 'F', 'L', 'U', 'S', 'H'], 0xB#4, .none),
    (['R', 'D', 'R', 'E', 'G'], 0xC#4, .number) ]

/-- The number an operand stands for. -/
def operandValue (kind : OperandKind) (t : Token) : Option Nat :=
  match kind, t with
  | .none, _ => none
  | .character, .char c => some c.toNat
  | .variant, .word ['A'] => some 0
  | .variant, .word ['B'] => some 1
  | .direction, .word ['8', 'T', 'O', '5'] => some 0
  | .direction, .word ['5', 'T', 'O', '8'] => some 1
  | _, .word cs => numberOf cs
  | _, _ => none

/-- The word of an opcode and an operand, refused above 255 and refused where R49 makes it illegal (R52). A data-range
violation is a legal word and is assembled. -/
def checkedWord (opc : BitVec 4) (v : Nat) : Except AsmError Word16 :=
  if 255 < v then .error .operandAbove255
  else
    match decode (assembleWord opc (BitVec.ofNat 8 v)) with
    | .ok _ => .ok (assembleWord opc (BitVec.ofNat 8 v))
    | .error _ => .error .illegalOperand

/-- The numbers of a bracketed list, after its `[` (R53). -/
def listValues : List Token → Option (List Nat)
  | [.closeList] => some []
  | [.word cs, .closeList] => (numberOf cs).map fun n => [n]
  | .word cs :: .comma :: rest =>
    match numberOf cs, listValues rest with
    | some n, some ns => if ns.isEmpty then none else some (n :: ns)
    | _, _ => none
  | _ => none

/-- One word for each number of a list. -/
def checkedWords (opc : BitVec 4) : List Nat → Except AsmError (List Word16)
  | [] => .ok []
  | v :: vs =>
    match checkedWord opc v, checkedWords opc vs with
    | .ok w, .ok ws => .ok (w :: ws)
    | .error e, _ => .error e
    | .ok _, .error e => .error e

/-- A command of R46 with the tokens after its mnemonic. -/
def asmCommand (opc : BitVec 4) (kind : OperandKind) (operands : List Token) : Except AsmError (List Word16) :=
  match kind, operands with
  | .none, [] => checkedWords opc [0]
  | .none, _ => .error .badOperand
  | _, [t] =>
    match operandValue kind t with
    | some v => checkedWords opc [v]
    | none => .error .badOperand
  | _, _ => .error .badOperand

/-- The code of a character of a string operand. -/
def charByte (c : Char) : Byte := BitVec.ofNat 8 c.toNat

/-- A pseudo-instruction of R53, if the mnemonic names one. -/
def asmPseudo (m : List Char) (operands : List Token) : Option (Except AsmError (List Word16)) :=
  if m = ['P', 'S', 'E', 'P'] then
    some (if operands.isEmpty then .ok (pSep.map encode) else .error .badOperand)
  else if m = ['P', 'Z', 'E', 'R', 'O', '6'] then
    some (if operands.isEmpty then .ok (pZero6.map encode) else .error .badOperand)
  else if m = ['P', 'H', 'R', 'P'] then
    some (match operands with | [.str cs] => .ok ((pHrp (cs.map charByte)).map encode) | _ => .error .badOperand)
  else if m = ['P', 'D', 'A', 'T', 'A'] then
    some (match operands with
      | .openList :: rest => match listValues rest with
        | some vs => checkedWords 0x2#4 vs
        | none => .error .badOperand
      | _ => .error .badOperand)
  else if m = ['R', 'S', 'E', 'Q'] then
    some (match operands with
      | .openList :: rest => match listValues rest with
        | some vs => match checkedWords 0xA#4 vs with
          | .ok ws => .ok (ws ++ [encode .rflush])
          | .error e => .error e
        | none => .error .badOperand
      | _ => .error .badOperand)
  else none

/-- One statement: nothing, a command or a pseudo-instruction. -/
def asmStatement : List Token → Except AsmError (List Word16)
  | [] => .ok []
  | .word m :: operands =>
    match asmPseudo m operands with
    | some r => r
    | none =>
      match mnemonics.find? fun row => row.1 = m with
      | some (_, opc, kind) => asmCommand opc kind operands
      | none => .error .unknownMnemonic
  | _ => .error .unknownMnemonic

/-- The statements of a token list, cut at the ends of lines and at `;`, assembled in order. -/
def asmTokens : List Token → List Token → Except AsmError (List Word16)
  | cur, [] => asmStatement cur
  | cur, .stop :: rest =>
    match asmStatement cur, asmTokens [] rest with
    | .ok ws, .ok ws' => .ok (ws ++ ws')
    | .error e, _ => .error e
    | .ok _, .error e => .error e
  | cur, t :: rest => asmTokens (cur ++ [t]) rest

/-- The assembler of R52 and R53. -/
def assemble (text : List Char) : Except AsmError (List Word16) :=
  match scan (.plain []) text with
  | .error e => .error e
  | .ok ts => asmTokens [] ts

end Sys2Proof.Machine
end

