-- ==== Sys2Proof/Machine/Codec.lean ====
section
/-! DEFINITION. The surrounding codec (spec R126 to R147): the host's Alphabet, Encoder, Decoder and Address, over the
pure functions of the two units. "Nothing in this file is a rule of the PCE block" (R125); no command of the block and no
field of State depends on it. Strings are lists of 8-bit character codes. The readings it takes are in log 12,
log 13, log 18 and log 19. -/

namespace Sys2Proof.Machine

/-- The 32 characters of the Alphabet, the character of value `i` at index `i` (R129). PRESUMED: the last one, `l`, is
missing from the source (C1, G5, log 12). -/
def alphabet : List Byte :=
  (['q', 'p', 'z', 'r', 'y', '9', 'x', '8', 'g', 'f', '2', 't', 'v', 'd', 'w', '0'] ++
    ['s', '3', 'j', 'n', '5', '4', 'k', 'h', 'c', 'e', '6', 'm', 'u', 'a', '7', 'l']).map
    fun c => BitVec.ofNat 8 c.toNat

/-- The separator character `1` (R130). -/
def separator : Byte := 0x31#8

/-- Upper-case letter. -/
def isUpper (c : Byte) : Bool := decide (0x41 ≤ c.toNat) && decide (c.toNat ≤ 0x5a)

/-- Lower-case letter. -/
def isLower (c : Byte) : Bool := decide (0x61 ≤ c.toNat) && decide (c.toNat ≤ 0x7a)

/-- The lower-case form of a character. -/
def lowerChar (c : Byte) : Byte := if isUpper c then c + 0x20#8 else c

/-- The lower-case form of a string. -/
def lowerString (s : List Byte) : List Byte := s.map lowerChar

/-- A string with letters of both cases (R133). -/
def mixedCase (s : List Byte) : Bool := s.any isUpper && s.any isLower

/-- Forward mapping of the Alphabet (R129). -/
def charOf (v : Sym) : Byte := alphabet.getD v.toNat 0#8

/-- Inverse mapping of the Alphabet, case-insensitive, failing outside the set (R129). -/
def valueOf (c : Byte) : Option Sym :=
  if lowerChar c ∈ alphabet then some (BitVec.ofNat 5 (alphabet.idxOf (lowerChar c))) else none

/-- A character of the ASCII range 33 to 126 (R127, R135). -/
def inHrpRange (c : Byte) : Bool := decide (33 ≤ c.toNat) && decide (c.toNat ≤ 126)

/-- An hrp as R127 wants it: non-empty, never mixed, in the range, without the separator character. -/
def hrpValid (h : List Byte) : Bool :=
  !h.isEmpty && !mixedCase h && h.all fun c => inHrpRange c && decide (c ≠ separator)

/-- The version-dependent bound on the program's length (R126, R140). -/
def programLengthOk (ver : Byte) (len : Nat) : Bool :=
  if ver = 0#8 then decide (len = 20 ∨ len = 32) else decide (2 ≤ len ∧ len ≤ 40)

/-- The Address value (R126). -/
structure Address where
  /-- `hrp` -/
  hrp : List Byte
  /-- `witnessVersion` -/
  version : Byte
  /-- `witnessProgram` -/
  program : List Byte
deriving DecidableEq, Repr

/-- The length of the string an Address encodes to: hrp, separator, version symbol, program symbols, checksum. -/
def encodedLength (a : Address) : Nat := a.hrp.length + 1 + 1 + (8 * a.program.length + 4) / 5 + 6

/-- What must hold for any Address that claims validity (R126, R127). -/
def Address.valid (c : Config) (a : Address) : Bool :=
  hrpValid a.hrp && decide (a.hrp.length ≤ 83) && decide (encodedLength a ≤ 90) && !aboveVersion c a.version &&
    programLengthOk a.version a.program.length

/-- Construction from `(hrp, version, program)` (R143): "invalid inputs must fail construction". -/
def Address.make (c : Config) (h : List Byte) (ver : Byte) (prog : List Byte) : Option Address :=
  let a : Address := { hrp := h, version := ver, program := prog }
  if a.valid c then some a else none

/-- Construction from a public key's 32-byte x-only representation (R143): version 1. DESIGN CHOICE (log 19): R143 says
that "this path never fails for a structurally valid key" and says nothing of the hrp; with an hrp that no valid Address has,
or that makes the total length exceed 90, it fails, since R126 and R127 exclude such an Address. -/
def Address.ofKey (c : Config) (h : List Byte) (key : Vector Byte 32) : Option Address := Address.make c h 1#8 key.toList

/-- `fromRaw(hrp, data)` (R143), "used internally by Decoder": a buffer that is the version followed by the program. That
its checks are those of construction is the model's choice (N21, log 13). -/
def Address.fromRaw (c : Config) (h : List Byte) : List Byte → Option Address
  | [] => none
  | ver :: prog => Address.make c h ver prog

/-- The string of a valid Address (R130, R131): the lowered hrp, the separator, and the Alphabet's characters of the
version, the program's symbols and the checksum. The hrp is lowered before the checksum is computed (R131, C5). -/
def Address.format (c : Config) (a : Address) : List Byte :=
  let hrp := lowerString a.hrp
  let d := lowSym a.version :: regroup8to5 a.program
  let symbols := d ++ checksumCreate c hrp d (variantOfVersion a.version)
  hrp ++ [separator] ++ symbols.map charOf

/-- The Encoder (R131): `none` where it "returns empty/failure result", which is on every input no valid Address has, a
total length above the format's 90 among them (R126, R130, R145). -/
def encodeString (c : Config) (h : List Byte) (ver : Byte) (prog : List Byte) : Option (List Byte) :=
  (Address.make c h ver prog).map (Address.format c)

/-- `string()` (R143): the empty string on a violated invariant (I13). -/
def Address.string (c : Config) (a : Address) : List Byte := (encodeString c a.hrp a.version a.program).getD []

/-- The part of a string before its last separator character and the part after it (R134). -/
def splitLast (s : List Byte) : Option (List Byte × List Byte) :=
  match s with
  | [] => none
  | c :: rest =>
    match splitLast rest with
    | some (h, d) => some (c :: h, d)
    | none => if c = separator then some ([], rest) else none

/-- Map every character of the data portion to its value (R136). -/
def dataValues : List Byte → Option (List Sym)
  | [] => some []
  | c :: rest =>
    match valueOf c, dataValues rest with
    | some v, some vs => some (v :: vs)
    | _, _ => none

/-- Steps 6 to 9 of the Decoder on a lower-case hrp and the data values (R137 to R140). Step 9 and the invariants that
every Address claiming validity has (R127, R128: "construction and validation are atomic") are the checks of fromRaw (R143);
so an hrp that holds the separator character, which steps 1 to 8 let pass, is rejected there. -/
def decodeValues (c : Config) (h : List Byte) (dv : List Sym) : Option Address :=
  match dv with
  | [] => none
  | v :: _ =>
    let ver := symByte v
    if aboveVersion c ver then none
    else if !checksumVerify c h dv (variantOfVersion ver) then none
    else
      match regroup5to8 c.strictPad (((dv.drop 1).take (dv.length - 7)).map symByte) with
      | .error _ => none
      | .ok prog => Address.fromRaw c h (ver :: prog)

/-- The Decoder (R132 to R141): one success or one failure; the caller cannot tell which step failed. The decoded hrp is
the Address's. -/
def decodeString (c : Config) (s : List Byte) : Option Address :=
  if s.length < 8 || decide (90 < s.length) then none
  else if mixedCase s then none
  else
    match splitLast (lowerString s) with
    | none => none
    | some (h, d) =>
      if h.isEmpty || decide (d.length < 6) then none
      else if !h.all inHrpRange then none
      else
        match dataValues d with
        | none => none
        | some dv => decodeValues c h dv

/-- `isValid(string)` (R142). -/
def isValid (c : Config) (s : List Byte) : Bool := (decodeString c s).isSome

/-- The Decoder with an expected hrp (R145, "Caller-scoped mismatch"): the Decoder's Address if its hrp is the expected
one, case-normalized (R142), else failure. DESIGN CHOICE: how this path is spelled is not in the source (N21, log 18). -/
def decodeStringFor (c : Config) (s expected : List Byte) : Option Address :=
  match decodeString c s with
  | some a => if a.hrp = lowerString expected then some a else none
  | none => none

/-- `isValid(string, expectedHrp)` (R142): "thin wrapper" over the Decoder with an expected hrp. -/
def isValidFor (c : Config) (s expected : List Byte) : Bool := (decodeStringFor c s expected).isSome

end Sys2Proof.Machine
end

