-- ==== Sys2Proof/Machine/Run.lean ====
section
/-! DEFINITION. A run (spec R42, R181): the left fold of the step over what the host presents. -/

namespace Sys2Proof.Machine

/-- `k` steps, stopping at the first fault or refusal (there is none, R173). -/
def run : Nat → State → Host.Outcome State Fault Refusal
  | 0, s => .next s
  | k + 1, s =>
    match step s with
    | .next t => run k t
    | .fault r => .fault r
    | .refused r => .refused r

/-- The run of R181: it "ends when the list is exhausted". -/
def runAll (s : State) : Host.Outcome State Fault Refusal := run s.input.length s

end Sys2Proof.Machine
end

