-- ==== Sys2Proof/Safety.lean ====
section
/-! DEFINITION. The terms the claims use: the invariant of every reachable state (spec R24), what belongs to which unit
(R10, R46), which cause a command ends with (R152, R154), and what a stream feeds and gives out (R79, R98). -/

namespace Sys2Proof.Machine

/-- The invariants of R24, (a) to (f). -/
abbrev State.Inv (s : State) : Prop :=
  s.acc.toNat < 2 ^ s.bits.toNat ∧
  (s.rdir = .eightToFive → s.bits.toNat ≤ 4) ∧
  (s.pfail = false ↔ s.pcause = 0#4) ∧
  (s.rfail = false ↔ s.rcause = 0#4) ∧
  (s.pcause = 0#4 ∨ s.pcause = 2#4 ∨ s.pcause = 4#4 ∨ s.pcause = 5#4) ∧
  (s.rcause = 0#4 ∨ s.rcause = 2#4 ∨ s.rcause = 3#4 ∨ s.rcause = 7#4) ∧
  (s.rcause = 7#4 → s.cfg.strictPad = true)

/-- The P-unit registers of two states agree (R10). -/
abbrev State.sameP (s t : State) : Prop := s.chk = t.chk ∧ s.pfail = t.pfail ∧ s.pcause = t.pcause

/-- The R-unit registers of two states agree (R10). -/
abbrev State.sameR (s t : State) : Prop :=
  s.acc = t.acc ∧ s.bits = t.bits ∧ s.rdir = t.rdir ∧ s.rfail = t.rfail ∧ s.rcause = t.rcause

/-- The registers of a unit of two states agree. -/
abbrev State.sameUnit (u : PceUnit) (s t : State) : Prop :=
  match u with
  | .p => s.sameP t
  | .r => s.sameR t

/-- The unit a command belongs to (R46, column "unit"). -/
def unitOf : Instr → Option PceUnit
  | .nop => none
  | .pinit => some .p
  | .psym _ => some .p
  | .phrph _ => some .p
  | .phrpl _ => some .p
  | .pfin _ => some .p
  | .pvfy _ => some .p
  | .pfinv _ => some .p
  | .pvfyv _ => some .p
  | .rinit _ => some .r
  | .rpush _ => some .r
  | .rflush => some .r
  | .rdreg _ => none

/-- The commands that skip the `FAILED` test (R154 (2)). -/
def skipsFailedTest : Instr → Bool
  | .nop => true
  | .pinit => true
  | .rinit _ => true
  | .rdreg _ => true
  | _ => false

/-- The causes that failure entry records (R150, column "sticky"). -/
def Cause.sticky : Cause → Bool
  | .symRange => true
  | .padNonzero => true
  | .checksum => true
  | .version => true
  | .padExcess => true
  | _ => false

/-- The cause that R152's table and R154's order give a command in a state. -/
def expectedCause (i : Instr) (s : State) : Cause :=
  match i with
  | .nop => .ok
  | .pinit => .ok
  | .rinit _ => .ok
  | .rdreg n => if n.toNat ≤ 12 then .ok else .illegal
  | .psym v => if s.pfail then .failed else if 31 < v.toNat then .symRange else .ok
  | .phrph _ => if s.pfail then .failed else .ok
  | .phrpl _ => if s.pfail then .failed else .ok
  | .pfin _ => if s.pfail then .failed else .ok
  | .pvfy k => if s.pfail then .failed else if s.chk ≠ s.cfg.k k then .checksum else .ok
  | .pfinv ver => if s.pfail then .failed else if s.cfg.versionMax < ver.toNat then .version else .ok
  | .pvfyv ver =>
    if s.pfail then .failed
    else if s.cfg.versionMax < ver.toNat then .version
    else if s.chk ≠ s.cfg.k (variantOfVersion ver) then .checksum
    else .ok
  | .rpush v =>
    if s.rfail then .failed else if s.rdir = .fiveToEight ∧ 31 < v.toNat then .symRange else .ok
  | .rflush =>
    if s.rfail then .failed
    else if s.rdir = .fiveToEight ∧ s.cfg.strictPad = true ∧ 5 ≤ s.bits.toNat then .padExcess
    else if s.rdir = .fiveToEight ∧ s.acc ≠ 0#7 then .padNonzero
    else .ok

/-- The symbol a command feeds to the polymod (R79), if it feeds one. -/
def fedSym : Instr → Option Sym
  | .psym v => some (lowSym v)
  | .phrph c => some (hrpHigh c)
  | .phrpl c => some (hrpLow c)
  | _ => none

/-- The commands that finish a polymod stream, which R79 lets stand in a stream when they are successful. -/
def finishing : Instr → Bool
  | .pfin _ => true
  | .pvfy _ => true
  | .pfinv _ => true
  | .pvfyv _ => true
  | _ => false

/-- The commands R79 lets stand in a polymod stream: feeding ones whose `PSYM` operands are at most 31, `NOP`, `RDREG`,
finishing ones, and every R-unit command. `PINIT` starts another stream. -/
def inPolymodStream : Instr → Bool
  | .pinit => false
  | .psym v => decide (v.toNat ≤ 31)
  | _ => true

/-- The commands among `is` that belong to the R-unit, in order (R98). -/
def regroupPart (is : List Instr) : List Instr := is.filter fun i => decide (unitOf i = some .r)

/-- The responses to the R-unit's commands among `is`, in order, where `rs` are the responses to `is`. -/
def regroupResponses (is : List Instr) (rs : List Response) : List Response :=
  ((is.zip rs).filter fun p => decide (unitOf p.1 = some .r)).map Prod.snd

/-- The output units of a list of responses, in order (R37, R98). -/
def unitsOf (rs : List Response) : List Byte := rs.flatMap Response.units

end Sys2Proof.Machine
end

