-- ==== Sys2Proof/Certificates/Slice0/Obligations.lean ====
section
/-! DEFINITION. The statements for the provers, from the numbered rules of the spec. A statement `s` about a command
gives the whole next state, so it says the result, the response, and that everything else is unchanged (there is no memory
and no program counter: spec R19, R30). -/

open Sys2Proof Sys2Proof.Machine

/-! ## Reset, the invariant, the step -/

/-- R26. What reset leaves: the table's value in every register at the start of a run, with the default parameters (that
`CHK` is then `0x00000001` rests on `CHK_INIT = 1`, PRESUMED, log 6); and
the two commands `PINIT; RINIT 0` leave the same values from any state, whatever the parameters are. -/
def Obligations.ResetLeavesTheTable : Prop :=
  (State.reset.chk = 0x00000001#30 ∧ State.reset.chk = State.reset.cfg.chkInit ∧ State.reset.pfail = false ∧
    State.reset.pcause = 0#4 ∧ State.reset.acc = 0#7 ∧ State.reset.bits = 0#3 ∧ State.reset.rdir = .eightToFive ∧
    State.reset.rfail = false ∧ State.reset.rcause = 0#4) ∧
  (∀ s : State, ∃ u v : State, exec .pinit s = .next u ∧ exec (.rinit .eightToFive) u = .next v ∧
    v.chk = s.cfg.chkInit ∧ v.pfail = false ∧ v.pcause = 0#4 ∧ v.acc = 0#7 ∧ v.bits = 0#3 ∧ v.rdir = .eightToFive ∧
    v.rfail = false ∧ v.rcause = 0#4)

/-- R170, as a step (the model's choice, log 3): a reset event, in any state, puts every register at its value of R26,
loses the streams in progress and gives no response; the constants and what the host has still to present stay. -/
def Obligations.ResetEvent : Prop :=
  ∀ (s : State) (rest : List HostEvent), s.input = .reset :: rest →
    step s = .next { cfg := s.cfg, chk := s.cfg.chkInit, pfail := false, pcause := 0#4, acc := 0#7, bits := 0#3,
                     rdir := .eightToFive, rfail := false, rcause := 0#4, input := rest, output := s.output }

/-- R24 at the start (the spec's own inference): the invariant holds after reset, from any state and for every value of the parameters. -/
def Obligations.ResetMeetsInv : Prop := State.reset.Inv ∧ ∀ s : State, (resetBlock s).Inv

/-- R24 (the spec's own inference): every step keeps the invariant, from every state that meets it. -/
def Obligations.StepKeepsInv : Prop := ∀ s t : State, s.Inv → step s = .next t → t.Inv

/-- R24 (the spec's own inference): every state reachable from reset, by any events and for every value of the parameters, meets (a) to (f). -/
def Obligations.ReachableMeetsInv : Prop :=
  ∀ (c : Config) (events : List HostEvent) (k : Nat) (t : State),
    run k (resetBlock { State.reset with cfg := c, input := events }) = .next t → t.Inv

/-- A step runs the decoded command, with the event taken from what the host presents; an illegal word answers
`ILLEGAL` (R42, R49). -/
def Obligations.StepRunsDecoded : Prop :=
  ∀ (s : State) (w : Word16) (rest : List HostEvent), s.input = .command w :: rest →
    (∀ i : Instr, decode w = .ok i → step s = exec i { s with input := rest }) ∧
    (∀ e : IllegalWord, decode w = .error e →
      step s = .next { s with input := rest, output := s.output ++ [⟨.illegal, 0#2, 0#30⟩] })

/-- "A block that has not been given a command does nothing and keeps its registers" (R166). -/
def Obligations.StepWithoutEvent : Prop := ∀ s : State, s.input = [] → step s = .next s

/-- R173 (the spec's own inference). Every command terminates with a next state, taking exactly one event, and a run of `n` events is `n` steps. -/
def Obligations.EveryStepCompletes : Prop :=
  (∀ s : State, ∃ t, step s = .next t ∧ t.input = s.input.tail) ∧
  (∀ s : State, ∃ t, run s.input.length s = .next t ∧ t.input = []) ∧
  (∀ (i : Instr) (s : State), ∃ t, exec i s = .next t)

/-- R48. Every command, legal or not, gives exactly one response; a failing one carries no count and no data; `cnt` is 0
for every command but `RPUSH` and `RFLUSH`; `data` is what R48 says command by command; and the 36-bit word is laid out
as R48 lays it. -/
def Obligations.OneResponseACommand : Prop :=
  (∀ (s : State) (w : Word16) (rest : List HostEvent), s.input = .command w :: rest →
    ∃ (t : State) (r : Response), step s = .next t ∧ t.output = s.output ++ [r] ∧
      (r.cause ≠ .ok → r.cnt = 0#2 ∧ r.data = 0#30) ∧ r.cnt.toNat ≤ 2 ∧
      ∀ i : Instr, decode w = .ok i →
        ((∀ v, i ≠ .rpush v) → i ≠ .rflush → r.cnt = 0#2) ∧
        (∀ k, i = .pfin k → r.cause = .ok → r.data = s.chk ^^^ s.cfg.k k) ∧
        (∀ ver, i = .pfinv ver → r.cause = .ok → r.data = s.chk ^^^ s.cfg.k (variantOfVersion ver)) ∧
        (∀ n, i = .rdreg n → readReg s n = some r.data) ∧
        ((∃ v, i = .rpush v) ∨ i = .rflush →
          r.data.toNat = ((r.units.getD 0 0#8).toNat + 256 * (r.units.getD 1 0#8).toNat) ∧ r.units.length = r.cnt.toNat) ∧
        ((∀ k, i ≠ .pfin k) → (∀ ver, i ≠ .pfinv ver) → (∀ n, i ≠ .rdreg n) → (∀ v, i ≠ .rpush v) → i ≠ .rflush →
          r.data = 0#30)) ∧
  (∀ r : Response, r.word.toNat = r.cause.code.toNat * 2 ^ 32 + r.cnt.toNat * 2 ^ 30 + r.data.toNat)

/-! ## Decoding -/

/-- Words written out from R46 and the table of 95_test_vectors.md section 2.8, at least one of every row, with what they
decode to. -/
def Obligations.WordsDecode : Prop :=
  decode 0x0000#16 = .ok .nop ∧ decode 0x1000#16 = .ok .pinit ∧ decode 0x2020#16 = .ok (.psym 32#8) ∧
  decode 0x3074#16 = .ok (.phrph 0x74#8) ∧ decode 0x40ff#16 = .ok (.phrpl 0xff#8) ∧
  decode 0x5000#16 = .ok (.pfin .a) ∧ decode 0x5001#16 = .ok (.pfin .b) ∧ decode 0x6001#16 = .ok (.pvfy .b) ∧
  decode 0x7011#16 = .ok (.pfinv 17#8) ∧ decode 0x80ff#16 = .ok (.pvfyv 255#8) ∧
  decode 0x9000#16 = .ok (.rinit .eightToFive) ∧ decode 0x9001#16 = .ok (.rinit .fiveToEight) ∧
  decode 0xa0ff#16 = .ok (.rpush 0xff#8) ∧ decode 0xb000#16 = .ok .rflush ∧ decode 0xc00c#16 = .ok (.rdreg 12#4) ∧
  decode 0x0100#16 = .error .reservedField ∧ decode 0x5002#16 = .error .operandAboveOne ∧
  decode 0xb001#16 = .error .operandNotZero ∧ decode 0xc00d#16 = .error .registerAboveTwelve ∧
  decode 0xd000#16 = .error .reservedOpcode

/-- R46. The opcode map row by row: a word decodes to a command of the row exactly when its bits under the row's mask
are the row's match value (and, for `RDREG`, the number is at most 12), and the operand is the named part of `OPD`. -/
def Obligations.OpcodeMap : Prop :=
  ∀ w : Word16,
    (decode w = .ok .nop ↔ w &&& 0xFFFF#16 = 0x0000#16) ∧
    (decode w = .ok .pinit ↔ w &&& 0xFFFF#16 = 0x1000#16) ∧
    (∀ v, decode w = .ok (.psym v) ↔ w &&& 0xFF00#16 = 0x2000#16 ∧ v = w.setWidth 8) ∧
    (∀ c, decode w = .ok (.phrph c) ↔ w &&& 0xFF00#16 = 0x3000#16 ∧ c = w.setWidth 8) ∧
    (∀ c, decode w = .ok (.phrpl c) ↔ w &&& 0xFF00#16 = 0x4000#16 ∧ c = w.setWidth 8) ∧
    (∀ k, decode w = .ok (.pfin k) ↔ w &&& 0xFFFE#16 = 0x5000#16 ∧ k = if w.getLsbD 0 then .b else .a) ∧
    (∀ k, decode w = .ok (.pvfy k) ↔ w &&& 0xFFFE#16 = 0x6000#16 ∧ k = if w.getLsbD 0 then .b else .a) ∧
    (∀ ver, decode w = .ok (.pfinv ver) ↔ w &&& 0xFF00#16 = 0x7000#16 ∧ ver = w.setWidth 8) ∧
    (∀ ver, decode w = .ok (.pvfyv ver) ↔ w &&& 0xFF00#16 = 0x8000#16 ∧ ver = w.setWidth 8) ∧
    (∀ d, decode w = .ok (.rinit d) ↔
      w &&& 0xFFFE#16 = 0x9000#16 ∧ d = if w.getLsbD 0 then .fiveToEight else .eightToFive) ∧
    (∀ v, decode w = .ok (.rpush v) ↔ w &&& 0xFF00#16 = 0xA000#16 ∧ v = w.setWidth 8) ∧
    (decode w = .ok .rflush ↔ w &&& 0xFFFF#16 = 0xB000#16) ∧
    (∀ n, decode w = .ok (.rdreg n) ↔ w &&& 0xFFF0#16 = 0xC000#16 ∧ n = w.setWidth 4 ∧ n.toNat ≤ 12)

/-- R49. A word is illegal exactly when one of the rule's clauses holds, and then it answers `ILLEGAL`, which is code 1,
and changes no register, from every state, failed or not. -/
def Obligations.IllegalWords : Prop :=
  (⟨.illegal, 0#2, 0#30⟩ : Response).word = 0x100000000#36 ∧
  ∀ w : Word16,
    ((∃ e, decode w = .error e) ↔
      (w.toNat / 256 % 16 ≠ 0 ∨ 13 ≤ w.toNat / 4096 ∨
        ((w.toNat / 4096 = 0 ∨ w.toNat / 4096 = 1 ∨ w.toNat / 4096 = 11) ∧ w.toNat % 256 ≠ 0) ∨
        ((w.toNat / 4096 = 5 ∨ w.toNat / 4096 = 6 ∨ w.toNat / 4096 = 9) ∧ 1 < w.toNat % 256) ∨
        (w.toNat / 4096 = 12 ∧ 12 < w.toNat % 256))) ∧
    (∀ (e : IllegalWord) (s : State), decode w = .error e →
      executeWord w s = .next { s with output := s.output ++ [⟨.illegal, 0#2, 0#30⟩] })

/-- Decoding the word of a well-formed command gives the command back, for every command and every operand. -/
def Obligations.DecodeEncode : Prop := ∀ i : Instr, i.wf = true → decode (encode i) = .ok i

/-- A word that decodes to a command is the command's one word, and the command is well formed: no two words are
aliases (R50). -/
def Obligations.EncodeDecode : Prop := ∀ (w : Word16) (i : Instr), decode w = .ok i → i.wf = true ∧ encode i = w

/-! ## System commands and views -/

/-- R105. `NOP` answers `OK` from every state and changes no register. -/
def Obligations.NopEffect : Prop :=
  ∀ s : State, encode .nop = 0x0000#16 ∧
    exec .nop s = .next { s with output := s.output ++ [⟨.ok, 0#2, 0#30⟩] } ∧
    (∀ v : Byte, v ≠ 0#8 → executeWord (0x00#8 ++ v) s = .next { s with output := s.output ++ [⟨.illegal, 0#2, 0#30⟩] })

/-- R106 with the register-number space of R31. `RDREG n` answers the register or constant, failed unit or not, and
changes no register; the numbers 13 to 15 are illegal words, and so is every word with `OPD[7:4] /= 0`. -/
def Obligations.RdregEffect : Prop :=
  ∀ s : State,
    (∀ (n : BitVec 4), n.toNat ≤ 12 → ∃ v : Word30,
      exec (.rdreg n) s = .next { s with output := s.output ++ [⟨.ok, 0#2, v⟩] } ∧
      encode (.rdreg n) = BitVec.ofNat 16 (0xC000 + n.toNat) ∧
      (n = 0#4 → v = s.pstat) ∧ (n = 1#4 → v = s.chk) ∧ (n = 2#4 → v = s.rstat) ∧ (n = 3#4 → v.toNat = s.acc.toNat) ∧
      (n = 4#4 → v = s.cfg.gen0) ∧ (n = 5#4 → v = s.cfg.gen1) ∧ (n = 6#4 → v = s.cfg.gen2) ∧
      (n = 7#4 → v = s.cfg.gen3) ∧ (n = 8#4 → v = s.cfg.gen4) ∧ (n = 9#4 → v = s.cfg.ka) ∧
      (n = 10#4 → v = s.cfg.kb) ∧ (n = 11#4 → v = s.cfg.chkInit) ∧
      (n = 12#4 → v = if s.cfg.strictPad then 1#30 else 0#30)) ∧
    (∀ (w : Word16), 0xC00D ≤ w.toNat → w.toNat ≤ 0xC0FF →
      executeWord w s = .next { s with output := s.output ++ [⟨.illegal, 0#2, 0#30⟩] })

/-- R22, R23. The status views bit field by bit field, as numbers: every bit not named is 0. -/
def Obligations.StatusViews : Prop :=
  ∀ s : State,
    s.pstat.toNat = s.pfail.toNat + 16 * s.pcause.toNat ∧
    s.rstat.toNat = s.rfail.toNat + 2 * (if s.rdir = .fiveToEight then 1 else 0) + 16 * s.rcause.toNat +
      256 * s.bits.toNat

/-! ## P-unit commands -/

/-- R70. `PINIT` starts a stream from any state, failed or not. -/
def Obligations.PinitEffect : Prop :=
  ∀ s : State, encode .pinit = 0x1000#16 ∧
    exec .pinit s = .next { s with chk := s.cfg.chkInit, pfail := false, pcause := 0#4,
                                   output := s.output ++ [⟨.ok, 0#2, 0#30⟩] }

/-- R71. `PSYM v`: ignored in the failed state; a value above 31 fails with `SYM_RANGE` and leaves `CHK`; a symbol is
folded in. -/
def Obligations.PsymEffect : Prop :=
  ∀ (v : Byte) (s : State), encode (.psym v) = BitVec.ofNat 16 (0x2000 + v.toNat) ∧
    (s.pfail = true → exec (.psym v) s = .next { s with output := s.output ++ [⟨.failed, 0#2, 0#30⟩] }) ∧
    (s.pfail = false → 31 < v.toNat →
      exec (.psym v) s = .next { s with pfail := true, pcause := 2#4, output := s.output ++ [⟨.symRange, 0#2, 0#30⟩] }) ∧
    (s.pfail = false → v.toNat ≤ 31 →
      exec (.psym v) s = .next { s with chk := polymodStep s.cfg s.chk (BitVec.ofNat 5 v.toNat),
                                        output := s.output ++ [⟨.ok, 0#2, 0#30⟩] })

/-- R72. `PHRPH c` folds in `OPD[7:5]`, for every character. -/
def Obligations.PhrphEffect : Prop :=
  ∀ (c : Byte) (s : State), encode (.phrph c) = BitVec.ofNat 16 (0x3000 + c.toNat) ∧
    (s.pfail = true → exec (.phrph c) s = .next { s with output := s.output ++ [⟨.failed, 0#2, 0#30⟩] }) ∧
    (s.pfail = false →
      exec (.phrph c) s = .next { s with chk := polymodStep s.cfg s.chk (BitVec.ofNat 5 (c.toNat / 32)),
                                         output := s.output ++ [⟨.ok, 0#2, 0#30⟩] })

/-- R73. `PHRPL c` folds in `OPD[4:0]`, for every character. -/
def Obligations.PhrplEffect : Prop :=
  ∀ (c : Byte) (s : State), encode (.phrpl c) = BitVec.ofNat 16 (0x4000 + c.toNat) ∧
    (s.pfail = true → exec (.phrpl c) s = .next { s with output := s.output ++ [⟨.failed, 0#2, 0#30⟩] }) ∧
    (s.pfail = false →
      exec (.phrpl c) s = .next { s with chk := polymodStep s.cfg s.chk (BitVec.ofNat 5 (c.toNat % 32)),
                                         output := s.output ++ [⟨.ok, 0#2, 0#30⟩] })

/-- R74. `PFIN k` gives out `CHK ^ K[k]` and changes no register; with `OPD[7:1] /= 0` the word is illegal. When the data is
the `m` of R64 is CreateSequence. -/
def Obligations.PfinEffect : Prop :=
  ∀ s : State, encode (.pfin .a) = 0x5000#16 ∧ encode (.pfin .b) = 0x5001#16 ∧
    (∀ k, s.pfail = true → exec (.pfin k) s = .next { s with output := s.output ++ [⟨.failed, 0#2, 0#30⟩] }) ∧
    (s.pfail = false →
      exec (.pfin .a) s = .next { s with output := s.output ++ [⟨.ok, 0#2, s.chk ^^^ s.cfg.ka⟩] } ∧
      exec (.pfin .b) s = .next { s with output := s.output ++ [⟨.ok, 0#2, s.chk ^^^ s.cfg.kb⟩] }) ∧
    (∀ w : Word16, 0x5002 ≤ w.toNat → w.toNat ≤ 0x50FF →
      executeWord w s = .next { s with output := s.output ++ [⟨.illegal, 0#2, 0#30⟩] })

/-- R75. `PVFY k` succeeds exactly when `CHK` is the variant constant; a mismatch fails the unit and leaves `CHK`;
with `OPD[7:1] /= 0` the word is illegal. -/
def Obligations.PvfyEffect : Prop :=
  ∀ (k : Variant) (s : State), encode (.pvfy .a) = 0x6000#16 ∧ encode (.pvfy .b) = 0x6001#16 ∧
    (s.pfail = true → exec (.pvfy k) s = .next { s with output := s.output ++ [⟨.failed, 0#2, 0#30⟩] }) ∧
    (s.pfail = false → s.chk = (match k with | .a => s.cfg.ka | .b => s.cfg.kb) →
      exec (.pvfy k) s = .next { s with output := s.output ++ [⟨.ok, 0#2, 0#30⟩] }) ∧
    (s.pfail = false → s.chk ≠ (match k with | .a => s.cfg.ka | .b => s.cfg.kb) →
      exec (.pvfy k) s = .next
        { s with pfail := true, pcause := 4#4, output := s.output ++ [⟨.checksum, 0#2, 0#30⟩] }) ∧
    (∀ w : Word16, 0x6002 ≤ w.toNat → w.toNat ≤ 0x60FF →
      executeWord w s = .next { s with output := s.output ++ [⟨.illegal, 0#2, 0#30⟩] })

/-- R76. `PFINV ver`: a version above `VERSION_MAX` fails the unit; else it gives out `CHK ^ K[0]` for version 0 and
`CHK ^ K[1]` for the others. -/
def Obligations.PfinvEffect : Prop :=
  ∀ (ver : Byte) (s : State), encode (.pfinv ver) = BitVec.ofNat 16 (0x7000 + ver.toNat) ∧
    (s.pfail = true → exec (.pfinv ver) s = .next { s with output := s.output ++ [⟨.failed, 0#2, 0#30⟩] }) ∧
    (s.pfail = false → s.cfg.versionMax < ver.toNat →
      exec (.pfinv ver) s = .next { s with pfail := true, pcause := 5#4, output := s.output ++ [⟨.version, 0#2, 0#30⟩] }) ∧
    (s.pfail = false → ver.toNat ≤ s.cfg.versionMax →
      exec (.pfinv ver) s = .next
        { s with output := s.output ++ [⟨.ok, 0#2, s.chk ^^^ (if ver.toNat = 0 then s.cfg.ka else s.cfg.kb)⟩] })

/-- R77. `PVFYV ver`: `FAILED`, then `VERSION`, then `CHECKSUM`, else `OK`; `CHK` stays. -/
def Obligations.PvfyvEffect : Prop :=
  ∀ (ver : Byte) (s : State), encode (.pvfyv ver) = BitVec.ofNat 16 (0x8000 + ver.toNat) ∧
    (s.pfail = true → exec (.pvfyv ver) s = .next { s with output := s.output ++ [⟨.failed, 0#2, 0#30⟩] }) ∧
    (s.pfail = false → s.cfg.versionMax < ver.toNat →
      exec (.pvfyv ver) s = .next { s with pfail := true, pcause := 5#4, output := s.output ++ [⟨.version, 0#2, 0#30⟩] }) ∧
    (s.pfail = false → ver.toNat ≤ s.cfg.versionMax → s.chk = (if ver.toNat = 0 then s.cfg.ka else s.cfg.kb) →
      exec (.pvfyv ver) s = .next { s with output := s.output ++ [⟨.ok, 0#2, 0#30⟩] }) ∧
    (s.pfail = false → ver.toNat ≤ s.cfg.versionMax → s.chk ≠ (if ver.toNat = 0 then s.cfg.ka else s.cfg.kb) →
      exec (.pvfyv ver) s = .next
        { s with pfail := true, pcause := 4#4, output := s.output ++ [⟨.checksum, 0#2, 0#30⟩] })

/-- R78. `variant_of_version`: 0 is variant A, 1 to 16 are variant B; and the constants of R6 at reset. -/
def Obligations.VariantOfVersion : Prop :=
  (∀ ver : Byte, (ver.toNat = 0 → variantOfVersion ver = .a) ∧ (1 ≤ ver.toNat → ver.toNat ≤ 16 → variantOfVersion ver = .b)) ∧
  Config.default.k .a = 0x00000001#30 ∧ Config.default.k .b = 0x2bc830a3#30 ∧ Config.default.versionMax = 16

/-! ## R-unit commands -/

/-- R88. `RINIT d` starts a conversion from any state, failed or not; residual bits are thrown away; with
`OPD[7:1] /= 0` the word is illegal. -/
def Obligations.RinitEffect : Prop :=
  ∀ (d : Dir) (s : State), encode (.rinit .eightToFive) = 0x9000#16 ∧ encode (.rinit .fiveToEight) = 0x9001#16 ∧
    exec (.rinit d) s = .next { s with acc := 0#7, bits := 0#3, rdir := d, rfail := false, rcause := 0#4,
                                       output := s.output ++ [⟨.ok, 0#2, 0#30⟩] } ∧
    (∀ w : Word16, 0x9002 ≤ w.toNat → w.toNat ≤ 0x90FF →
      executeWord w s = .next { s with output := s.output ++ [⟨.illegal, 0#2, 0#30⟩] })

/-- R89. `RPUSH v` in direction 8→5, in the numbers of the rule: `t` is the residual followed by the byte, `n` its length;
two symbols come out exactly when `BITS >= 2`, and `BITS` afterwards is `(BITS + 8) mod 5`. The premise on `ACC` and
`BITS` is the invariant of R24 (a), (b). -/
def Obligations.RpushByteEffect : Prop :=
  ∀ (v : Byte) (s : State), encode (.rpush v) = BitVec.ofNat 16 (0xA000 + v.toNat) ∧
    (s.rfail = true → exec (.rpush v) s = .next { s with output := s.output ++ [⟨.failed, 0#2, 0#30⟩] }) ∧
    (s.rfail = false → s.rdir = .eightToFive → s.acc.toNat < 2 ^ s.bits.toNat → s.bits.toNat ≤ 4 →
      let t := s.acc.toNat * 256 + v.toNat
      let n := s.bits.toNat + 8
      (2 ≤ s.bits.toNat →
        exec (.rpush v) s = .next
          { s with acc := BitVec.ofNat 7 (t % 2 ^ (n - 10)), bits := BitVec.ofNat 3 ((s.bits.toNat + 8) % 5),
                   output := s.output ++ [⟨.ok, 2#2, BitVec.ofNat 30 (t / 2 ^ (n - 10) % 32 * 256 + t / 2 ^ (n - 5))⟩] }) ∧
      (s.bits.toNat < 2 →
        exec (.rpush v) s = .next
          { s with acc := BitVec.ofNat 7 (t % 2 ^ (n - 5)), bits := BitVec.ofNat 3 ((s.bits.toNat + 8) % 5),
                   output := s.output ++ [⟨.ok, 1#2, BitVec.ofNat 30 (t / 2 ^ (n - 5))⟩] }))

/-- R90. `RPUSH v` in direction 5→8: a value above 31 fails the unit and leaves `ACC` and `BITS`; a byte comes out exactly
when `BITS >= 3`, and `BITS` afterwards is `(BITS + 5) mod 8`. The premise on `ACC` is the invariant of R24 (a). -/
def Obligations.RpushSymEffect : Prop :=
  ∀ (v : Byte) (s : State), encode (.rpush v) = BitVec.ofNat 16 (0xA000 + v.toNat) ∧
    (s.rfail = true → exec (.rpush v) s = .next { s with output := s.output ++ [⟨.failed, 0#2, 0#30⟩] }) ∧
    (s.rfail = false → s.rdir = .fiveToEight → 31 < v.toNat →
      exec (.rpush v) s = .next { s with rfail := true, rcause := 2#4, output := s.output ++ [⟨.symRange, 0#2, 0#30⟩] }) ∧
    (s.rfail = false → s.rdir = .fiveToEight → v.toNat ≤ 31 → s.acc.toNat < 2 ^ s.bits.toNat →
      let t := s.acc.toNat * 32 + v.toNat
      let n := s.bits.toNat + 5
      (3 ≤ s.bits.toNat →
        exec (.rpush v) s = .next
          { s with acc := BitVec.ofNat 7 (t % 2 ^ (n - 8)), bits := BitVec.ofNat 3 ((s.bits.toNat + 5) % 8),
                   output := s.output ++ [⟨.ok, 1#2, BitVec.ofNat 30 (t / 2 ^ (n - 8))⟩] }) ∧
      (s.bits.toNat < 3 →
        exec (.rpush v) s = .next
          { s with acc := BitVec.ofNat 7 t, bits := BitVec.ofNat 3 ((s.bits.toNat + 5) % 8),
                   output := s.output ++ [⟨.ok, 0#2, 0#30⟩] }))

/-- R91, R93. `RFLUSH` in direction 8→5 gives out the residual bits as the high bits of one last symbol, zeros below them,
if there are any. The premise on `ACC` and `BITS` is the invariant of R24 (a), (b). -/
def Obligations.RflushSymEffect : Prop :=
  ∀ s : State, encode .rflush = 0xB000#16 ∧
    (s.rfail = true → exec .rflush s = .next { s with output := s.output ++ [⟨.failed, 0#2, 0#30⟩] }) ∧
    (s.rfail = false → s.rdir = .eightToFive → s.acc.toNat < 2 ^ s.bits.toNat → s.bits.toNat ≤ 4 →
      (0 < s.bits.toNat →
        exec .rflush s = .next
          { s with acc := 0#7, bits := 0#3,
                   output := s.output ++ [⟨.ok, 1#2, BitVec.ofNat 30 (s.acc.toNat * 2 ^ (5 - s.bits.toNat))⟩] }) ∧
      (s.bits.toNat = 0 → exec .rflush s = .next { s with output := s.output ++ [⟨.ok, 0#2, 0#30⟩] }))

/-- R92. `RFLUSH` in direction 5→8: `PAD_EXCESS` under `STRICT_PAD`, then `PAD_NONZERO`, else the zero bits left over are
dropped and no byte comes out. -/
def Obligations.RflushByteEffect : Prop :=
  ∀ s : State, encode .rflush = 0xB000#16 ∧
    (s.rfail = true → exec .rflush s = .next { s with output := s.output ++ [⟨.failed, 0#2, 0#30⟩] }) ∧
    (s.rfail = false → s.rdir = .fiveToEight → s.cfg.strictPad = true → 5 ≤ s.bits.toNat →
      exec .rflush s = .next
        { s with rfail := true, rcause := 7#4, output := s.output ++ [⟨.padExcess, 0#2, 0#30⟩] }) ∧
    (s.rfail = false → s.rdir = .fiveToEight → (s.cfg.strictPad = false ∨ s.bits.toNat < 5) → s.acc.toNat ≠ 0 →
      exec .rflush s = .next
        { s with rfail := true, rcause := 3#4, output := s.output ++ [⟨.padNonzero, 0#2, 0#30⟩] }) ∧
    (s.rfail = false → s.rdir = .fiveToEight → (s.cfg.strictPad = false ∨ s.bits.toNat < 5) → s.acc.toNat = 0 →
      exec .rflush s = .next { s with acc := 0#7, bits := 0#3, output := s.output ++ [⟨.ok, 0#2, 0#30⟩] })

/-! ## Failures and the two units -/

/-- R150. The codes of the causes, and which of them are sticky; no cause has a code above 7. -/
def Obligations.CauseCodes : Prop :=
  Cause.ok.code.toNat = 0 ∧ Cause.illegal.code.toNat = 1 ∧ Cause.symRange.code.toNat = 2 ∧
  Cause.padNonzero.code.toNat = 3 ∧ Cause.checksum.code.toNat = 4 ∧ Cause.version.code.toNat = 5 ∧
  Cause.failed.code.toNat = 6 ∧ Cause.padExcess.code.toNat = 7 ∧
  (∀ c : Cause, c.code.toNat ≤ 7 ∧ (c.sticky = true ↔ c.code.toNat ∈ [2, 3, 4, 5, 7]))

/-- R152 (the spec's own inference from the commands' rules), with the order of R154: every command ends with the cause
of R152's table, the first that applies in R154's order, in every state; a word that is no command ends with `ILLEGAL`,
decided on the word. -/
def Obligations.CauseOfEveryCommand : Prop :=
  (∀ (i : Instr) (s : State), i.wf = true → ∃ (t : State) (cnt : BitVec 2) (data : Word30),
    exec i s = .next t ∧ t.output = s.output ++ [⟨expectedCause i s, cnt, data⟩]) ∧
  (∀ (w : Word16) (s : State), ∃ (t : State) (cnt : BitVec 2) (data : Word30),
    executeWord w s = .next t ∧
      t.output = s.output ++ [⟨(match decode w with | .ok i => expectedCause i s | .error _ => .illegal), cnt, data⟩])

/-- R156. A command that ends with a sticky cause does failure entry and nothing else: its unit's flag and cause, and the
response; every other register keeps its value. It was not in the failed state before. -/
def Obligations.FailureEntry : Prop :=
  ∀ (i : Instr) (s t : State) (r : Response), exec i s = .next t → t.output = s.output ++ [r] → r.cause.sticky = true →
    r.cnt = 0#2 ∧ r.data = 0#30 ∧
    ((unitOf i = some .p ∧ s.pfail = false ∧
        t = { s with pfail := true, pcause := r.cause.code, output := s.output ++ [r] }) ∨
     (unitOf i = some .r ∧ s.rfail = false ∧
        t = { s with rfail := true, rcause := r.cause.code, output := s.output ++ [r] }))

/-- R158. In the failed state of its unit every command that does not skip the test answers `FAILED` and changes
nothing; `NOP` and `RDREG` are unaffected; and the other unit is unaffected: what its commands do is the same whatever this
unit's flag and cause are. -/
def Obligations.FailedStateIgnores : Prop :=
  ∀ (i : Instr) (s : State), i.wf = true →
    ((unitOf i = some .p → skipsFailedTest i = false → s.pfail = true →
        exec i s = .next { s with output := s.output ++ [⟨.failed, 0#2, 0#30⟩] }) ∧
     (unitOf i = some .r → skipsFailedTest i = false → s.rfail = true →
        exec i s = .next { s with output := s.output ++ [⟨.failed, 0#2, 0#30⟩] }) ∧
     (unitOf i = none → ∃ data, exec i s = .next { s with output := s.output ++ [⟨.ok, 0#2, data⟩] }) ∧
     (unitOf i = some .r → ∀ (f : Bool) (c : BitVec 4) (t : State), exec i s = .next t →
        exec i { s with pfail := f, pcause := c } = .next { t with pfail := f, pcause := c }) ∧
     (unitOf i = some .p → ∀ (f : Bool) (c : BitVec 4) (t : State), exec i s = .next t →
        exec i { s with rfail := f, rcause := c } = .next { t with rfail := f, rcause := c }))

/-- R159. The failed state of a unit is left by the unit's init command and by reset and by nothing else: over any step
that is neither, the flag, the cause and the data registers of the failed unit stay. Both clear the flag and the cause and
put the data registers in their initial state. An illegal word answers `ILLEGAL` and leaves the state as it was. -/
def Obligations.FailedStateStays : Prop :=
  ∀ (s t : State), step s = .next t →
    (s.pfail = true → s.input.head? ≠ some .reset → s.input.head? ≠ some (.command 0x1000#16) → s.sameP t) ∧
    (s.rfail = true → s.input.head? ≠ some .reset → s.input.head? ≠ some (.command 0x9000#16) →
      s.input.head? ≠ some (.command 0x9001#16) → s.sameR t) ∧
    (s.input.head? = some .reset → t.pfail = false ∧ t.pcause = 0#4 ∧ t.chk = s.cfg.chkInit ∧
      t.rfail = false ∧ t.rcause = 0#4 ∧ t.acc = 0#7 ∧ t.bits = 0#3 ∧ t.rdir = .eightToFive) ∧
    (s.input.head? = some (.command 0x1000#16) → t.pfail = false ∧ t.pcause = 0#4 ∧ t.chk = s.cfg.chkInit) ∧
    (s.input.head? = some (.command 0x9000#16) ∨ s.input.head? = some (.command 0x9001#16) →
      t.rfail = false ∧ t.rcause = 0#4 ∧ t.acc = 0#7 ∧ t.bits = 0#3) ∧
    (∀ (w : Word16) (rest : List HostEvent) (e : IllegalWord), s.input = .command w :: rest → decode w = .error e →
      t = { s with input := rest, output := s.output ++ [⟨.illegal, 0#2, 0#30⟩] })

/-- R10, D25. A unit's command neither reads nor writes the other unit's registers: run in two states that agree on its
own unit and the constants, it gives the same response and the same registers of its unit, and leaves the other unit's. -/
def Obligations.UnitsShareNothing : Prop :=
  ∀ (i : Instr) (u : PceUnit) (s s' t t' : State), unitOf i = some u → s.cfg = s'.cfg → State.sameUnit u s s' →
    exec i s = .next t → exec i s' = .next t' →
    State.sameUnit u t t' ∧ (match u with | .p => s.sameR t | .r => s.sameP t) ∧ t.input = s.input ∧
    ∃ r, t.output = s.output ++ [r] ∧ t'.output = s'.output ++ [r]

/-- R42's last sentence (the spec's own inference from R10). A P-unit command and an R-unit command that are neighbours may
be swapped: the same two responses, in the other order, and the same registers. -/
def Obligations.NeighboursSwap : Prop :=
  ∀ (i j : Instr) (s a b a' b' : State), unitOf i = some .p → unitOf j = some .r →
    exec i s = .next a → exec j a = .next b → exec j s = .next a' → exec i a' = .next b' →
    b.sameP b' ∧ b.sameR b' ∧ b.cfg = b'.cfg ∧ b.input = b'.input ∧
    ∃ p r, b.output = s.output ++ [p, r] ∧ b'.output = s.output ++ [r, p]

/-- R21. No step writes a constant of the block, and only the commands R10 names write a register: `RDREG`, `NOP`, illegal
words and an empty port write none. -/
def Obligations.ConstantsFixed : Prop :=
  (∀ s t : State, step s = .next t → t.cfg = s.cfg) ∧
  (∀ (k : Nat) (s t : State), run k s = .next t → t.cfg = s.cfg) ∧
  (∀ (i : Instr) (s t : State), unitOf i = none → exec i s = .next t → s.sameP t ∧ s.sameR t)

/-! ## The polymod -/

/-- R61 (the step's structure is PRESUMED, log 7). The step in numbers and bits: `CHK[24:0]` moved up five places with the symbol below it, and bit `i` of
`CHK[29:25]` folds `GEN[i]` in by exclusive or; for every table. -/
def Obligations.PolymodStepBits : Prop :=
  ∀ (c : Config) (chk : Word30) (v : Sym),
    polymodStep c chk v =
      BitVec.ofNat 30 (chk.toNat % 2 ^ 25 * 32 + v.toNat) ^^^
      ((if chk.getLsbD 25 then c.gen0 else 0#30) ^^^ (if chk.getLsbD 26 then c.gen1 else 0#30) ^^^
        (if chk.getLsbD 27 then c.gen2 else 0#30) ^^^ (if chk.getLsbD 28 then c.gen3 else 0#30) ^^^
        (if chk.getLsbD 29 then c.gen4 else 0#30))

/-- R66 (the spec's own inference from R61). Linearity of the step and of the fold over sequences of equal length, for every table. -/
def Obligations.PolymodLinear : Prop :=
  (∀ (c : Config) (c1 c2 : Word30) (v1 v2 : Sym),
    polymodStep c (c1 ^^^ c2) (v1 ^^^ v2) = polymodStep c c1 v1 ^^^ polymodStep c c2 v2) ∧
  (∀ (c : Config) (c1 c2 : Word30) (a b : List Sym), a.length = b.length →
    polymodFold c (c1 ^^^ c2) (List.zipWith (· ^^^ ·) a b) = polymodFold c c1 a ^^^ polymodFold c c2 b)

/-- R67 (the spec's own inference). A created checksum verifies, and it is the only six-symbol tail that does, for every hrp, data, variant and every
value of the parameters. -/
def Obligations.CreatedChecksumVerifies : Prop :=
  ∀ (c : Config) (h : List Byte) (d : List Sym) (k : Variant),
    checksumVerify c h (d ++ checksumCreate c h d k) k = true ∧
    (∀ tail : List Sym, tail.length = 6 → checksumVerify c h (d ++ tail) k = true → tail = checksumCreate c h d k)

/-- R68 (the spec's own inference). A checksum created under one variant does not verify under the other, whenever the two constants differ, as they
do by R6. -/
def Obligations.VariantBinding : Prop :=
  Config.default.ka ≠ Config.default.kb ∧
  ∀ (c : Config) (h : List Byte) (d : List Sym) (k k' : Variant), c.ka ≠ c.kb → k ≠ k' →
    checksumVerify c h (d ++ checksumCreate c h d k) k' = false

/-- R69 (the spec's own inference), for the generator values of the default table (PRESUMED, from general knowledge: log 5): replacing exactly one
data or checksum symbol by another makes a verification that succeeded fail, at every length. -/
def Obligations.SubstitutionDetected : Prop :=
  ∀ (c : Config) (h : List Byte) (before rest : List Sym) (v v' : Sym) (k : Variant),
    c.gen0 = Config.default.gen0 → c.gen1 = Config.default.gen1 → c.gen2 = Config.default.gen2 →
    c.gen3 = Config.default.gen3 → c.gen4 = Config.default.gen4 → v ≠ v' →
    checksumVerify c h (before ++ v :: rest) k = true → checksumVerify c h (before ++ v' :: rest) k = false

/-- R69 (the spec's own inference), for the generator values of the default table (PRESUMED, log 5): replacing exactly one character of an hrp of at
most 198 characters by another makes a verification that succeeded fail. -/
def Obligations.HrpSubstitutionDetected : Prop :=
  ∀ (c : Config) (before rest : List Byte) (x y : Byte) (dc : List Sym) (k : Variant),
    c.gen0 = Config.default.gen0 → c.gen1 = Config.default.gen1 → c.gen2 = Config.default.gen2 →
    c.gen3 = Config.default.gen3 → c.gen4 = Config.default.gen4 → x ≠ y → (before ++ x :: rest).length ≤ 198 →
    checksumVerify c (before ++ x :: rest) dc k = true → checksumVerify c (before ++ y :: rest) dc k = false

/-- R79 (the spec's own inference). Stream equivalence: feeding commands interleaved with `NOP`, `RDREG`, R-unit commands and successful finishing
commands leave the polymod of what was fed. -/
def Obligations.PolymodStream : Prop :=
  ∀ (is : List Instr) (s : State), s.pfail = false → s.chk = s.cfg.chkInit → s.input = eventsOf is →
    (∀ i ∈ is, i.wf = true ∧ inPolymodStream i = true) →
    ∃ (t : State) (rs : List Response), runAll s = .next t ∧ t.output = s.output ++ rs ∧ rs.length = is.length ∧
      ((∀ p ∈ is.zip rs, finishing p.1 = true → p.2.cause = .ok) →
        t.pfail = false ∧ t.chk = polymod s.cfg (is.filterMap fedSym))

/-- R112 with R110 (the spec's own inference). `PHRP` is `2n + 1` commands and feeds exactly `hrp_expand`. -/
def Obligations.PhrpFeedsExpansion : Prop :=
  ∀ (h : List Byte) (s : State), (pHrp h).length = 2 * h.length + 1 ∧ (pHrp h).filterMap fedSym = hrpExpand h ∧
    pHrp h = h.map .phrph ++ [.psym 0#8] ++ h.map .phrpl ∧
    (s.pfail = false → s.input = eventsOf (pHrp h) →
      runAll s = .next { s with chk := polymodFold s.cfg s.chk (hrpExpand h), input := [],
                                output := s.output ++ List.replicate (2 * h.length + 1) ⟨.ok, 0#2, 0#30⟩ })

/-- R114 (the spec's own inference). The sequence that creates a checksum, from any state: its length, all responses `OK`, and the last one carries
`m` of `checksum_create`; with a version operand the same under the version's variant, or `VERSION`. -/
def Obligations.CreateSequence : Prop :=
  ∀ (h : List Byte) (d : List Sym) (s : State),
    (∀ k : Variant, s.input = eventsOf (createSeq h (d.map symByte) k) →
      s.input.length = 2 * h.length + d.length + 9 ∧
      ∃ t, runAll s = .next t ∧
        t.output = s.output ++ List.replicate (2 * h.length + d.length + 8) ⟨.ok, 0#2, 0#30⟩ ++
          [⟨.ok, 0#2, checksumValue s.cfg h d k⟩]) ∧
    (∀ ver : Byte, s.input = eventsOf (createSeqVersion h (d.map symByte) ver) →
      ∃ t, runAll s = .next t ∧
        t.output = s.output ++ List.replicate (2 * h.length + d.length + 8) ⟨.ok, 0#2, 0#30⟩ ++
          [if s.cfg.versionMax < ver.toNat then ⟨.version, 0#2, 0#30⟩
           else ⟨.ok, 0#2, checksumValue s.cfg h d (variantOfVersion ver)⟩])

/-- R115 (the spec's own inference). The sequence that verifies a checksum, from any state, on values of any size: its length, and the last response
is `FAILED` if a value is out of range, else `VERSION` if the version is, else `OK` exactly when `checksum_verify` is true,
else `CHECKSUM`. -/
def Obligations.VerifySequence : Prop :=
  ∀ (h dc : List Byte) (s : State),
    (∀ k : Variant, s.input = eventsOf (verifySeq h dc k) →
      s.input.length = 2 * h.length + dc.length + 3 ∧
      ∃ (t : State) (r : Response), runAll s = .next t ∧ t.output.getLast? = some r ∧
        r.cause = (if dc.any (fun v => decide (31 < v.toNat)) then .failed
          else if checksumVerify s.cfg h (dc.map lowSym) k then .ok else .checksum) ∧
        (dc.any (fun v => decide (31 < v.toNat)) = true → t.pcause = 2#4)) ∧
    (∀ ver : Byte, s.input = eventsOf (verifySeqVersion h dc ver) →
      ∃ (t : State) (r : Response), runAll s = .next t ∧ t.output.getLast? = some r ∧
        r.cause = (if dc.any (fun v => decide (31 < v.toNat)) then .failed
          else if s.cfg.versionMax < ver.toNat then .version
          else if checksumVerify s.cfg h (dc.map lowSym) (variantOfVersion ver) then .ok else .checksum))

/-! ## The regrouper -/

/-- R87 (a) (the spec's own inference). Lengths: `ceil(8n / 5)` symbols for `n` bytes; `floor(5m / 8)` bytes for `m` symbols. -/
def Obligations.RegroupLengths : Prop :=
  (∀ b : List Byte, (regroup8to5 b).length = (8 * b.length + 4) / 5) ∧
  (∀ (strict : Bool) (s o : List Byte), regroup5to8 strict s = .ok o → o.length = 5 * s.length / 8)

/-- R87 (b) (the spec's own inference). Lossless round trip, with `STRICT_PAD` true or false. -/
def Obligations.RegroupRoundTrip : Prop :=
  ∀ (strict : Bool) (b : List Byte), regroup5to8 strict ((regroup8to5 b).map symByte) = .ok b

/-- R87 (c) (the spec's own inference). The other composition: the symbols come back, without the last one when five or more bits were left over,
which `STRICT_PAD` excludes. -/
def Obligations.RegroupOtherWay : Prop :=
  ∀ (strict : Bool) (s : List Sym) (o : List Byte), regroup5to8 strict (s.map symByte) = .ok o →
    (5 * s.length % 8 < 5 → regroup8to5 o = s) ∧
    (5 ≤ 5 * s.length % 8 → strict = false ∧ regroup8to5 o = s.dropLast)

/-- R85, R86, "Equivalently": the loops compute the bit-string form, most significant bit first (R33). -/
def Obligations.RegroupBitStrings : Prop :=
  (∀ b : List Byte, regroup8to5 b = regroup8to5Bits b) ∧
  (∀ s : List Sym, regroup5to8 false (s.map symByte) = regroup5to8Bits s)

/-- R98 (the spec's own inference), `d = 0`. `RINIT 8TO5`, `RPUSH x[0]`, ..., `RFLUSH`, with any `NOP`, `RDREG` and P-unit commands in between, from
any state: every response of the R-unit is `OK`, the outputs are `regroup_8to5(x)`, and the unit ends ready for another
conversion in the same direction. -/
def Obligations.ConvertToSymbolsStream : Prop :=
  ∀ (is : List Instr) (x : List Byte) (s : State), (∀ i ∈ is, i.wf = true) → s.input = eventsOf is →
    regroupPart is = convertSeq .eightToFive x →
    ∃ (t : State) (rs : List Response), runAll s = .next t ∧ t.output = s.output ++ rs ∧ rs.length = is.length ∧
      (∀ r ∈ regroupResponses is rs, r.cause = .ok) ∧ unitsOf (regroupResponses is rs) = (regroup8to5 x).map symByte ∧
      t.acc = 0#7 ∧ t.bits = 0#3 ∧ t.rfail = false ∧ t.rcause = 0#4 ∧ t.rdir = .eightToFive

/-- R98 (the spec's own inference), `d = 1`. The same in direction 5→8, for values of any size: if `regroup_5to8` succeeds, every response of the
R-unit is `OK`, the outputs are its bytes and the unit ends ready for another conversion; if it fails with a cause, the
R-unit's responses are `OK` up to one with that cause and `FAILED` after it, and the cause stays recorded. -/
def Obligations.ConvertToBytesStream : Prop :=
  ∀ (is : List Instr) (x : List Byte) (s : State), (∀ i ∈ is, i.wf = true) → s.input = eventsOf is →
    regroupPart is = convertSeq .fiveToEight x →
    ∃ (t : State) (rs : List Response), runAll s = .next t ∧ t.output = s.output ++ rs ∧ rs.length = is.length ∧
      (∀ y, regroup5to8 s.cfg.strictPad x = .ok y →
        (∀ r ∈ regroupResponses is rs, r.cause = .ok) ∧ unitsOf (regroupResponses is rs) = y ∧
        t.acc = 0#7 ∧ t.bits = 0#3 ∧ t.rfail = false ∧ t.rcause = 0#4 ∧ t.rdir = .fiveToEight) ∧
      (∀ e, regroup5to8 s.cfg.strictPad x = .error e →
        (∃ n m : Nat, (regroupResponses is rs).map Response.cause =
          List.replicate n .ok ++ [e] ++ List.replicate m .failed) ∧
        t.rfail = true ∧ t.rcause = e.code ∧ t.rdir = .fiveToEight)

/-- R117 with R98's last sentence (the spec's own inference): `RSEQ` without `RINIT`. In an R-unit with no residual bits
and no failure, as it is after reset and after a conversion that ended well, `RSEQ x` is a conversion in the direction the
unit has. In direction 8→5 it gives `regroup_8to5(x)`. In direction 5→8, if `regroup_5to8(x)` succeeds it gives its bytes, and
in both cases the unit ends as it began; if it fails with a cause, the responses are `OK` up to one with that cause and
`FAILED` after it, and the cause stays recorded. The P-unit is untouched. -/
def Obligations.RseqAlone : Prop :=
  ∀ (x : List Byte) (s : State), s.acc = 0#7 → s.bits = 0#3 → s.rfail = false → s.rcause = 0#4 → s.input = eventsOf (rSeq x) →
    ∃ (t : State) (rs : List Response), runAll s = .next t ∧ t.output = s.output ++ rs ∧ rs.length = x.length + 1 ∧
      s.sameP t ∧
      (s.rdir = .eightToFive →
        (∀ r ∈ rs, r.cause = .ok) ∧ unitsOf rs = (regroup8to5 x).map symByte ∧ s.sameR t) ∧
      (s.rdir = .fiveToEight → ∀ y, regroup5to8 s.cfg.strictPad x = .ok y →
        (∀ r ∈ rs, r.cause = .ok) ∧ unitsOf rs = y ∧ s.sameR t) ∧
      (s.rdir = .fiveToEight → ∀ e, regroup5to8 s.cfg.strictPad x = .error e →
        (∃ n m : Nat, rs.map Response.cause = List.replicate n .ok ++ [e] ++ List.replicate m .failed) ∧
        t.rfail = true ∧ t.rcause = e.code ∧ t.rdir = .fiveToEight)

/-! ## The assembler and the codec around the block -/

/-- R52. The assembler produces only legal words: it "refuses an operand that would make the word illegal". -/
def Obligations.AssembledWordsLegal : Prop :=
  ∀ (text : List Char) (ws : List Word16), assemble text = .ok ws → ∀ w ∈ ws, ∃ i, decode w = .ok i

/-- R147, Round-trip, outside the block (R125), as C5 resolves it, for every value of the parameters with a
`VERSION_MAX` of at most 31: decoding the encoding of a valid Address gives the Address, with its hrp lowered; so for a
lower-case hrp it gives the Address itself. And, for every value of the parameters, what the two directions give is valid
(R127, R130, R143): a string that the Encoder gives is that of a valid Address, and its length is the predicted one, at
most 90; an Address that the Decoder gives is valid, with a lower-case hrp, and its string decodes to it again. -/
def Obligations.CodecRoundTrip : Prop :=
  (∀ (c : Config) (a : Address), c.versionMax ≤ 31 → a.valid c = true →
    ∃ str, encodeString c a.hrp a.version a.program = some str ∧ str.length = encodedLength a ∧
      decodeString c str = some { a with hrp := lowerString a.hrp }) ∧
  (∀ (c : Config) (a : Address) (str : List Byte), encodeString c a.hrp a.version a.program = some str →
    a.valid c = true ∧ str.length = encodedLength a ∧ str.length ≤ 90) ∧
  (∀ (c : Config) (str : List Byte) (a : Address), decodeString c str = some a →
    a.valid c = true ∧ lowerString a.hrp = a.hrp ∧ decodeString c (a.string c) = some a)

/-- R118 (the spec's own inference from R114 and R117). Encoding with the block, for a version that is in range and is a
symbol: from any state the two sequences give the symbols of the codec's string, the program's
symbols in the first and the checksum value in the last response of the second. -/
def Obligations.EncodeOnBlock : Prop :=
  ∀ (h prog : List Byte) (ver : Byte) (s : State), ver.toNat ≤ s.cfg.versionMax → ver.toNat ≤ 31 →
    s.input = eventsOf (encodeRegroup prog ++ encodeChecksum h ver ((regroup8to5 prog).map symByte)) →
    ∃ (t : State) (rs : List Response) (m : Word30), runAll s = .next t ∧ t.output = s.output ++ rs ++ [⟨.ok, 0#2, m⟩] ∧
      (∀ r ∈ rs, r.cause = .ok) ∧ unitsOf rs = (regroup8to5 prog).map symByte ∧
      checksumSymbols m = checksumCreate s.cfg h (lowSym ver :: regroup8to5 prog) (variantOfVersion ver)

/-- R119 (the spec's own inference from R115 and R117). Decoding with the block: from any state, on values that are symbols, all responses of the two sequences are `OK`
exactly when the Decoder's steps 6, 7 and 8 pass, and then the outputs are the witness program. -/
def Obligations.DecodeOnBlock : Prop :=
  ∀ (h : List Byte) (v : Sym) (vs : List Sym) (s : State),
    s.input = eventsOf (decodeVerify h ((v :: vs).map symByte) ++ decodeRegroup ((v :: vs).map symByte)) →
    ∃ (t : State) (rs : List Response), runAll s = .next t ∧ t.output = s.output ++ rs ∧
      ((∀ r ∈ rs, r.cause = .ok) ↔
        (v.toNat ≤ s.cfg.versionMax ∧ checksumVerify s.cfg h (v :: vs) (variantOfVersion (symByte v)) = true ∧
          ∃ prog, regroup5to8 s.cfg.strictPad ((vs.take (vs.length + 1 - 7)).map symByte) = .ok prog)) ∧
      (∀ prog, (∀ r ∈ rs, r.cause = .ok) →
        regroup5to8 s.cfg.strictPad ((vs.take (vs.length + 1 - 7)).map symByte) = .ok prog → unitsOf rs = prog)
end

