-- ==== Sys2Proof/Laws/Codec.lean ====
section
/-! SUPPORT. What constructing an Address, encoding it and the Decoder's last steps can do, said once. -/

namespace Sys2Proof.Machine

/-- Construction gives the Address of its inputs, exactly when it is valid. -/
theorem Address.make_eq_some {c : Config} {h : List Byte} {ver : Byte} {prog : List Byte} {a : Address} :
    Address.make c h ver prog = some a ↔ a = ⟨h, ver, prog⟩ ∧ a.valid c = true := by
  unfold Address.make
  by_cases hv : (Address.mk h ver prog).valid c = true
  · simp only [hv, if_true, Option.some.injEq]
    exact ⟨fun e => e ▸ ⟨rfl, hv⟩, fun e => e.1.symm⟩
  · simp only [hv, if_false, reduceCtorEq, false_iff, Bool.false_eq_true]
    rintro ⟨rfl, h⟩
    exact hv h

@[simp] theorem Address.fromRaw_nil (c : Config) (h : List Byte) : Address.fromRaw c h [] = none := rfl

@[simp] theorem Address.fromRaw_cons (c : Config) (h : List Byte) (ver : Byte) (prog : List Byte) :
    Address.fromRaw c h (ver :: prog) = Address.make c h ver prog := rfl

/-- Construction from a key never fails for the key's sake: it succeeds exactly when the hrp is valid and has at most 30
characters (30 + 1 + 1 + 52 + 6 = 90), and version 1 is in range. -/
theorem Address.ofKey_isSome (c : Config) (h : List Byte) (key : Vector Byte 32) :
    (Address.ofKey c h key).isSome = true ↔ hrpValid h = true ∧ h.length ≤ 30 ∧ 1 ≤ c.versionMax := by
  have hs : (Address.ofKey c h key).isSome = (Address.mk h 1#8 key.toList).valid c := by
    simp only [Address.ofKey, Address.make]
    split <;> simp_all
  rw [hs]
  simp [Address.valid, encodedLength, aboveVersion, programLengthOk]
  constructor
  · rintro ⟨⟨⟨hh, _⟩, _⟩, _⟩
    exact ⟨hh, by omega, by omega⟩
  · rintro ⟨hh, _, _⟩
    exact ⟨⟨⟨hh, by omega⟩, by omega⟩, by omega⟩

/-- The Encoder gives the string of the Address of its inputs, exactly when that is valid. -/
theorem encodeString_eq_some {c : Config} {h : List Byte} {ver : Byte} {prog str : List Byte} :
    encodeString c h ver prog = some str ↔
      (Address.mk h ver prog).valid c = true ∧ str = Address.format c ⟨h, ver, prog⟩ := by
  simp only [encodeString, Option.map_eq_some_iff, Address.make_eq_some]
  constructor
  · rintro ⟨a, ⟨rfl, hv⟩, rfl⟩
    exact ⟨hv, rfl⟩
  · rintro ⟨hv, rfl⟩
    exact ⟨_, ⟨rfl, hv⟩, rfl⟩

/-- Everything a success of the Decoder's steps 6 to 9 says. -/
theorem decodeValues_eq_some {c : Config} {h : List Byte} {dv : List Sym} {a : Address} :
    decodeValues c h dv = some a ↔ ∃ v vs, dv = v :: vs ∧ aboveVersion c (symByte v) = false ∧
      checksumVerify c h dv (variantOfVersion (symByte v)) = true ∧ a.hrp = h ∧ a.version = symByte v ∧
      regroup5to8 c.strictPad ((vs.take (vs.length + 1 - 7)).map symByte) = .ok a.program ∧ a.valid c = true := by
  rcases dv with _ | ⟨v, vs⟩
  · simp [decodeValues]
  · rw [decodeValues]
    simp only [List.drop_one, List.tail_cons, List.length_cons]
    rcases hv : aboveVersion c (symByte v) with _ | _ <;>
      rcases hk : checksumVerify c h (v :: vs) (variantOfVersion (symByte v)) with _ | _ <;>
        rcases hr : regroup5to8 c.strictPad ((vs.take (vs.length + 1 - 7)).map symByte) with e | prog
    case false.true.ok =>
      simp only [Bool.not_true, Bool.false_eq_true, if_false, Address.fromRaw_cons, Address.make_eq_some]
      constructor
      · rintro ⟨rfl, ha⟩
        exact ⟨v, vs, rfl, hv, hk, rfl, rfl, hr, ha⟩
      · rintro ⟨v', vs', hc, -, -, rfl, h2, h3, ha⟩
        obtain ⟨rfl, rfl⟩ := List.cons.inj hc
        rw [hr] at h3
        injection h3 with h3
        subst h3
        exact ⟨by cases a; simp_all, ha⟩
    all_goals
      simp_all only [Bool.not_true, Bool.not_false, if_true, if_false, Bool.false_eq_true, reduceCtorEq, false_iff,
        not_exists]
      rintro v' vs' ⟨hc, h1, h2, -, -, h3, -⟩
      obtain ⟨rfl, rfl⟩ := List.cons.inj hc
      simp_all

/-- Decoding with an expected hrp is decoding, and the hrp is the expected one. -/
theorem decodeStringFor_eq_some {c : Config} {s expected : List Byte} {a : Address} :
    decodeStringFor c s expected = some a ↔ decodeString c s = some a ∧ a.hrp = lowerString expected := by
  unfold decodeStringFor
  rcases decodeString c s with _ | b
  · simp
  · by_cases hb : b.hrp = lowerString expected
    · simp only [hb, if_true, Option.some.injEq]
      exact ⟨fun e => e ▸ ⟨rfl, hb⟩, fun e => e.1⟩
    · simp only [hb, if_false, reduceCtorEq, Option.some.injEq, false_iff]
      rintro ⟨rfl, h⟩
      exact hb h

end Sys2Proof.Machine
end

