-- ==== Sys2Proof/Laws/Decode.lean ====
section
/-! SUPPORT. The fields of a word as numbers, the word of two fields, and what each operand form accepts. -/

namespace Sys2Proof

theorem opcField_toNat (w : Word16) : (opcField w).toNat = w.toNat / 4096 := by
  have := w.isLt
  simp [opcField, BitVec.extractLsb'_toNat, Nat.shiftRight_eq_div_pow]
  omega

theorem rsvField_toNat (w : Word16) : (rsvField w).toNat = w.toNat / 256 % 16 := by
  simp [rsvField, BitVec.extractLsb'_toNat, Nat.shiftRight_eq_div_pow]

theorem opdField_toNat (w : Word16) : (opdField w).toNat = w.toNat % 256 := by
  simp [opdField, BitVec.extractLsb'_toNat]

theorem assembleWord_toNat (o : BitVec 4) (v : Byte) : (assembleWord o v).toNat = o.toNat * 4096 + v.toNat := by
  have := v.isLt
  have := o.isLt
  simp only [assembleWord, BitVec.toNat_append, BitVec.toNat_ofNat]
  rw [← Nat.shiftLeft_add_eq_or_of_lt (by omega), ← Nat.shiftLeft_add_eq_or_of_lt (by omega)]
  simp [Nat.shiftLeft_eq]
  omega

@[simp] theorem opcField_assembleWord (o : BitVec 4) (v : Byte) : opcField (assembleWord o v) = o := by
  apply BitVec.eq_of_toNat_eq
  have := v.isLt
  rw [opcField_toNat, assembleWord_toNat]
  omega

@[simp] theorem rsvField_assembleWord (o : BitVec 4) (v : Byte) : rsvField (assembleWord o v) = 0#4 := by
  apply BitVec.eq_of_toNat_eq
  have := v.isLt
  rw [rsvField_toNat, assembleWord_toNat]
  simp
  omega

@[simp] theorem opdField_assembleWord (o : BitVec 4) (v : Byte) : opdField (assembleWord o v) = v := by
  apply BitVec.eq_of_toNat_eq
  have := v.isLt
  rw [opdField_toNat, assembleWord_toNat]
  omega

/-- A word whose reserved field is 0 is the word of its two other fields. -/
theorem assembleWord_fields (w : Word16) (h : rsvField w = 0#4) : assembleWord (opcField w) (opdField w) = w := by
  apply BitVec.eq_of_toNat_eq
  have h := congrArg BitVec.toNat h
  rw [rsvField_toNat] at h
  rw [assembleWord_toNat, opcField_toNat, opdField_toNat]
  simp at h
  omega

@[simp] theorem decode_assembleWord (o : BitVec 4) (v : Byte) : decode (assembleWord o v) = decodeFields o v := by
  simp [decode]

theorem noOperand_ok {v : Byte} {i j : Instr} : noOperand v i = .ok j ↔ v = 0#8 ∧ i = j := by
  unfold noOperand
  split <;> simp_all

theorem noOperand_error {v : Byte} {i : Instr} : (∃ e, noOperand v i = .error e) ↔ v.toNat ≠ 0 := by
  unfold noOperand
  split
  · rename_i h
    simp [h]
  · rename_i h
    have : v.toNat ≠ 0 := fun h' => h (BitVec.eq_of_toNat_eq h')
    simp [this]

theorem bitOperand_ok {v : Byte} {f : Bool → Instr} {j : Instr} :
    bitOperand v f = .ok j ↔ v.toNat ≤ 1 ∧ f (v.getLsbD 0) = j := by
  unfold bitOperand
  split <;> simp_all

theorem bitOperand_error {v : Byte} {f : Bool → Instr} : (∃ e, bitOperand v f = .error e) ↔ 1 < v.toNat := by
  unfold bitOperand
  split <;> simp <;> omega

theorem regOperand_ok {v : Byte} {j : Instr} :
    regOperand v = .ok j ↔ v.toNat ≤ 12 ∧ .rdreg (v.extractLsb' 0 4) = j := by
  unfold regOperand
  split <;> simp_all

theorem regOperand_error {v : Byte} : (∃ e, regOperand v = .error e) ↔ 12 < v.toNat := by
  unfold regOperand
  split <;> simp <;> omega

/-- The sixteen opcodes, for a case split. -/
theorem opcode_cases (o : BitVec 4) :
    o = 0#4 ∨ o = 1#4 ∨ o = 2#4 ∨ o = 3#4 ∨ o = 4#4 ∨ o = 5#4 ∨ o = 6#4 ∨ o = 7#4 ∨ o = 8#4 ∨ o = 9#4 ∨ o = 10#4 ∨
      o = 11#4 ∨ o = 12#4 ∨ o = 13#4 ∨ o = 14#4 ∨ o = 15#4 := by
  revert o
  decide

end Sys2Proof
end

