-- ==== Sys2Proof/Laws/State.lean ====
section
/-! SUPPORT. One lemma for each field of State and each update of it the operations make, true by rfl. -/

namespace Sys2Proof.Machine

section
variable (s : State)

/-! ### respond -/

@[simp] theorem respond_cfg (c : Cause) (n : BitVec 2) (d : Word30) : (respond c n d s).cfg = s.cfg := rfl
@[simp] theorem respond_chk (c : Cause) (n : BitVec 2) (d : Word30) : (respond c n d s).chk = s.chk := rfl
@[simp] theorem respond_pfail (c : Cause) (n : BitVec 2) (d : Word30) : (respond c n d s).pfail = s.pfail := rfl
@[simp] theorem respond_pcause (c : Cause) (n : BitVec 2) (d : Word30) : (respond c n d s).pcause = s.pcause := rfl
@[simp] theorem respond_acc (c : Cause) (n : BitVec 2) (d : Word30) : (respond c n d s).acc = s.acc := rfl
@[simp] theorem respond_bits (c : Cause) (n : BitVec 2) (d : Word30) : (respond c n d s).bits = s.bits := rfl
@[simp] theorem respond_rdir (c : Cause) (n : BitVec 2) (d : Word30) : (respond c n d s).rdir = s.rdir := rfl
@[simp] theorem respond_rfail (c : Cause) (n : BitVec 2) (d : Word30) : (respond c n d s).rfail = s.rfail := rfl
@[simp] theorem respond_rcause (c : Cause) (n : BitVec 2) (d : Word30) : (respond c n d s).rcause = s.rcause := rfl
@[simp] theorem respond_input (c : Cause) (n : BitVec 2) (d : Word30) : (respond c n d s).input = s.input := rfl
@[simp] theorem respond_output (c : Cause) (n : BitVec 2) (d : Word30) : (respond c n d s).output = s.output ++ [⟨c, n, d⟩] := rfl

/-! ### respondOk -/

@[simp] theorem respondOk_cfg : (respondOk s).cfg = s.cfg := rfl
@[simp] theorem respondOk_chk : (respondOk s).chk = s.chk := rfl
@[simp] theorem respondOk_pfail : (respondOk s).pfail = s.pfail := rfl
@[simp] theorem respondOk_pcause : (respondOk s).pcause = s.pcause := rfl
@[simp] theorem respondOk_acc : (respondOk s).acc = s.acc := rfl
@[simp] theorem respondOk_bits : (respondOk s).bits = s.bits := rfl
@[simp] theorem respondOk_rdir : (respondOk s).rdir = s.rdir := rfl
@[simp] theorem respondOk_rfail : (respondOk s).rfail = s.rfail := rfl
@[simp] theorem respondOk_rcause : (respondOk s).rcause = s.rcause := rfl
@[simp] theorem respondOk_input : (respondOk s).input = s.input := rfl
@[simp] theorem respondOk_output : (respondOk s).output = s.output ++ [⟨.ok, 0#2, 0#30⟩] := rfl

/-! ### answerIllegal -/

@[simp] theorem answerIllegal_cfg : (answerIllegal s).cfg = s.cfg := rfl
@[simp] theorem answerIllegal_chk : (answerIllegal s).chk = s.chk := rfl
@[simp] theorem answerIllegal_pfail : (answerIllegal s).pfail = s.pfail := rfl
@[simp] theorem answerIllegal_pcause : (answerIllegal s).pcause = s.pcause := rfl
@[simp] theorem answerIllegal_acc : (answerIllegal s).acc = s.acc := rfl
@[simp] theorem answerIllegal_bits : (answerIllegal s).bits = s.bits := rfl
@[simp] theorem answerIllegal_rdir : (answerIllegal s).rdir = s.rdir := rfl
@[simp] theorem answerIllegal_rfail : (answerIllegal s).rfail = s.rfail := rfl
@[simp] theorem answerIllegal_rcause : (answerIllegal s).rcause = s.rcause := rfl
@[simp] theorem answerIllegal_input : (answerIllegal s).input = s.input := rfl
@[simp] theorem answerIllegal_output : (answerIllegal s).output = s.output ++ [⟨.illegal, 0#2, 0#30⟩] := rfl

/-! ### raiseFailure -/

@[simp] theorem raiseFailure_p_cfg (c : Cause) : (raiseFailure .p c s).cfg = s.cfg := rfl
@[simp] theorem raiseFailure_p_chk (c : Cause) : (raiseFailure .p c s).chk = s.chk := rfl
@[simp] theorem raiseFailure_p_pfail (c : Cause) : (raiseFailure .p c s).pfail = true := rfl
@[simp] theorem raiseFailure_p_pcause (c : Cause) : (raiseFailure .p c s).pcause = c.code := rfl
@[simp] theorem raiseFailure_p_acc (c : Cause) : (raiseFailure .p c s).acc = s.acc := rfl
@[simp] theorem raiseFailure_p_bits (c : Cause) : (raiseFailure .p c s).bits = s.bits := rfl
@[simp] theorem raiseFailure_p_rdir (c : Cause) : (raiseFailure .p c s).rdir = s.rdir := rfl
@[simp] theorem raiseFailure_p_rfail (c : Cause) : (raiseFailure .p c s).rfail = s.rfail := rfl
@[simp] theorem raiseFailure_p_rcause (c : Cause) : (raiseFailure .p c s).rcause = s.rcause := rfl
@[simp] theorem raiseFailure_p_input (c : Cause) : (raiseFailure .p c s).input = s.input := rfl
@[simp] theorem raiseFailure_p_output (c : Cause) : (raiseFailure .p c s).output = s.output ++ [⟨c, 0#2, 0#30⟩] := rfl

/-! ### clearFailure -/

@[simp] theorem clearFailure_p_cfg : (clearFailure .p s).cfg = s.cfg := rfl
@[simp] theorem clearFailure_p_chk : (clearFailure .p s).chk = s.chk := rfl
@[simp] theorem clearFailure_p_pfail : (clearFailure .p s).pfail = false := rfl
@[simp] theorem clearFailure_p_pcause : (clearFailure .p s).pcause = 0#4 := rfl
@[simp] theorem clearFailure_p_acc : (clearFailure .p s).acc = s.acc := rfl
@[simp] theorem clearFailure_p_bits : (clearFailure .p s).bits = s.bits := rfl
@[simp] theorem clearFailure_p_rdir : (clearFailure .p s).rdir = s.rdir := rfl
@[simp] theorem clearFailure_p_rfail : (clearFailure .p s).rfail = s.rfail := rfl
@[simp] theorem clearFailure_p_rcause : (clearFailure .p s).rcause = s.rcause := rfl
@[simp] theorem clearFailure_p_input : (clearFailure .p s).input = s.input := rfl
@[simp] theorem clearFailure_p_output : (clearFailure .p s).output = s.output := rfl

/-! ### raiseFailure -/

@[simp] theorem raiseFailure_r_cfg (c : Cause) : (raiseFailure .r c s).cfg = s.cfg := rfl
@[simp] theorem raiseFailure_r_chk (c : Cause) : (raiseFailure .r c s).chk = s.chk := rfl
@[simp] theorem raiseFailure_r_pfail (c : Cause) : (raiseFailure .r c s).pfail = s.pfail := rfl
@[simp] theorem raiseFailure_r_pcause (c : Cause) : (raiseFailure .r c s).pcause = s.pcause := rfl
@[simp] theorem raiseFailure_r_acc (c : Cause) : (raiseFailure .r c s).acc = s.acc := rfl
@[simp] theorem raiseFailure_r_bits (c : Cause) : (raiseFailure .r c s).bits = s.bits := rfl
@[simp] theorem raiseFailure_r_rdir (c : Cause) : (raiseFailure .r c s).rdir = s.rdir := rfl
@[simp] theorem raiseFailure_r_rfail (c : Cause) : (raiseFailure .r c s).rfail = true := rfl
@[simp] theorem raiseFailure_r_rcause (c : Cause) : (raiseFailure .r c s).rcause = c.code := rfl
@[simp] theorem raiseFailure_r_input (c : Cause) : (raiseFailure .r c s).input = s.input := rfl
@[simp] theorem raiseFailure_r_output (c : Cause) : (raiseFailure .r c s).output = s.output ++ [⟨c, 0#2, 0#30⟩] := rfl

/-! ### clearFailure -/

@[simp] theorem clearFailure_r_cfg : (clearFailure .r s).cfg = s.cfg := rfl
@[simp] theorem clearFailure_r_chk : (clearFailure .r s).chk = s.chk := rfl
@[simp] theorem clearFailure_r_pfail : (clearFailure .r s).pfail = s.pfail := rfl
@[simp] theorem clearFailure_r_pcause : (clearFailure .r s).pcause = s.pcause := rfl
@[simp] theorem clearFailure_r_acc : (clearFailure .r s).acc = s.acc := rfl
@[simp] theorem clearFailure_r_bits : (clearFailure .r s).bits = s.bits := rfl
@[simp] theorem clearFailure_r_rdir : (clearFailure .r s).rdir = s.rdir := rfl
@[simp] theorem clearFailure_r_rfail : (clearFailure .r s).rfail = false := rfl
@[simp] theorem clearFailure_r_rcause : (clearFailure .r s).rcause = 0#4 := rfl
@[simp] theorem clearFailure_r_input : (clearFailure .r s).input = s.input := rfl
@[simp] theorem clearFailure_r_output : (clearFailure .r s).output = s.output := rfl

/-! ### stepChk -/

@[simp] theorem stepChk_cfg (v : Sym) : (stepChk v s).cfg = s.cfg := rfl
@[simp] theorem stepChk_chk (v : Sym) : (stepChk v s).chk = polymodStep s.cfg s.chk v := rfl
@[simp] theorem stepChk_pfail (v : Sym) : (stepChk v s).pfail = s.pfail := rfl
@[simp] theorem stepChk_pcause (v : Sym) : (stepChk v s).pcause = s.pcause := rfl
@[simp] theorem stepChk_acc (v : Sym) : (stepChk v s).acc = s.acc := rfl
@[simp] theorem stepChk_bits (v : Sym) : (stepChk v s).bits = s.bits := rfl
@[simp] theorem stepChk_rdir (v : Sym) : (stepChk v s).rdir = s.rdir := rfl
@[simp] theorem stepChk_rfail (v : Sym) : (stepChk v s).rfail = s.rfail := rfl
@[simp] theorem stepChk_rcause (v : Sym) : (stepChk v s).rcause = s.rcause := rfl
@[simp] theorem stepChk_input (v : Sym) : (stepChk v s).input = s.input := rfl
@[simp] theorem stepChk_output (v : Sym) : (stepChk v s).output = s.output ++ [⟨.ok, 0#2, 0#30⟩] := rfl

/-! ### finish -/

@[simp] theorem finish_cfg (k : Variant) : (finish k s).cfg = s.cfg := rfl
@[simp] theorem finish_chk (k : Variant) : (finish k s).chk = s.chk := rfl
@[simp] theorem finish_pfail (k : Variant) : (finish k s).pfail = s.pfail := rfl
@[simp] theorem finish_pcause (k : Variant) : (finish k s).pcause = s.pcause := rfl
@[simp] theorem finish_acc (k : Variant) : (finish k s).acc = s.acc := rfl
@[simp] theorem finish_bits (k : Variant) : (finish k s).bits = s.bits := rfl
@[simp] theorem finish_rdir (k : Variant) : (finish k s).rdir = s.rdir := rfl
@[simp] theorem finish_rfail (k : Variant) : (finish k s).rfail = s.rfail := rfl
@[simp] theorem finish_rcause (k : Variant) : (finish k s).rcause = s.rcause := rfl
@[simp] theorem finish_input (k : Variant) : (finish k s).input = s.input := rfl
@[simp] theorem finish_output (k : Variant) : (finish k s).output = s.output ++ [⟨.ok, 0#2, s.chk ^^^ s.cfg.k k⟩] := rfl

/-! ### setResidual -/

@[simp] theorem setResidual_cfg (t n : Nat) : (setResidual t n s).cfg = s.cfg := rfl
@[simp] theorem setResidual_chk (t n : Nat) : (setResidual t n s).chk = s.chk := rfl
@[simp] theorem setResidual_pfail (t n : Nat) : (setResidual t n s).pfail = s.pfail := rfl
@[simp] theorem setResidual_pcause (t n : Nat) : (setResidual t n s).pcause = s.pcause := rfl
@[simp] theorem setResidual_acc (t n : Nat) : (setResidual t n s).acc = BitVec.ofNat 7 (t &&& (2 ^ n - 1)) := rfl
@[simp] theorem setResidual_bits (t n : Nat) : (setResidual t n s).bits = BitVec.ofNat 3 n := rfl
@[simp] theorem setResidual_rdir (t n : Nat) : (setResidual t n s).rdir = s.rdir := rfl
@[simp] theorem setResidual_rfail (t n : Nat) : (setResidual t n s).rfail = s.rfail := rfl
@[simp] theorem setResidual_rcause (t n : Nat) : (setResidual t n s).rcause = s.rcause := rfl
@[simp] theorem setResidual_input (t n : Nat) : (setResidual t n s).input = s.input := rfl
@[simp] theorem setResidual_output (t n : Nat) : (setResidual t n s).output = s.output := rfl

/-! ### clearResidual -/

@[simp] theorem clearResidual_cfg : (clearResidual s).cfg = s.cfg := rfl
@[simp] theorem clearResidual_chk : (clearResidual s).chk = s.chk := rfl
@[simp] theorem clearResidual_pfail : (clearResidual s).pfail = s.pfail := rfl
@[simp] theorem clearResidual_pcause : (clearResidual s).pcause = s.pcause := rfl
@[simp] theorem clearResidual_acc : (clearResidual s).acc = 0#7 := rfl
@[simp] theorem clearResidual_bits : (clearResidual s).bits = 0#3 := rfl
@[simp] theorem clearResidual_rdir : (clearResidual s).rdir = s.rdir := rfl
@[simp] theorem clearResidual_rfail : (clearResidual s).rfail = s.rfail := rfl
@[simp] theorem clearResidual_rcause : (clearResidual s).rcause = s.rcause := rfl
@[simp] theorem clearResidual_input : (clearResidual s).input = s.input := rfl
@[simp] theorem clearResidual_output : (clearResidual s).output = s.output := rfl

/-! ### resetBlock -/

@[simp] theorem resetBlock_cfg : (resetBlock s).cfg = s.cfg := rfl
@[simp] theorem resetBlock_chk : (resetBlock s).chk = s.cfg.chkInit := rfl
@[simp] theorem resetBlock_pfail : (resetBlock s).pfail = false := rfl
@[simp] theorem resetBlock_pcause : (resetBlock s).pcause = 0#4 := rfl
@[simp] theorem resetBlock_acc : (resetBlock s).acc = 0#7 := rfl
@[simp] theorem resetBlock_bits : (resetBlock s).bits = 0#3 := rfl
@[simp] theorem resetBlock_rdir : (resetBlock s).rdir = .eightToFive := rfl
@[simp] theorem resetBlock_rfail : (resetBlock s).rfail = false := rfl
@[simp] theorem resetBlock_rcause : (resetBlock s).rcause = 0#4 := rfl
@[simp] theorem resetBlock_input : (resetBlock s).input = s.input := rfl
@[simp] theorem resetBlock_output : (resetBlock s).output = s.output := rfl

/-! ### presentWord -/

@[simp] theorem presentWord_cfg (w : Word16) : (presentWord w s).cfg = s.cfg := rfl
@[simp] theorem presentWord_chk (w : Word16) : (presentWord w s).chk = s.chk := rfl
@[simp] theorem presentWord_pfail (w : Word16) : (presentWord w s).pfail = s.pfail := rfl
@[simp] theorem presentWord_pcause (w : Word16) : (presentWord w s).pcause = s.pcause := rfl
@[simp] theorem presentWord_acc (w : Word16) : (presentWord w s).acc = s.acc := rfl
@[simp] theorem presentWord_bits (w : Word16) : (presentWord w s).bits = s.bits := rfl
@[simp] theorem presentWord_rdir (w : Word16) : (presentWord w s).rdir = s.rdir := rfl
@[simp] theorem presentWord_rfail (w : Word16) : (presentWord w s).rfail = s.rfail := rfl
@[simp] theorem presentWord_rcause (w : Word16) : (presentWord w s).rcause = s.rcause := rfl
@[simp] theorem presentWord_input (w : Word16) : (presentWord w s).input = .command w :: s.input := rfl
@[simp] theorem presentWord_output (w : Word16) : (presentWord w s).output = s.output := rfl

end

/-! ### the flags by unit -/

@[simp] theorem State.failFlag_p (s : State) : s.failFlag .p = s.pfail := rfl
@[simp] theorem State.failFlag_r (s : State) : s.failFlag .r = s.rfail := rfl
@[simp] theorem State.causeReg_p (s : State) : s.causeReg .p = s.pcause := rfl
@[simp] theorem State.causeReg_r (s : State) : s.causeReg .r = s.rcause := rfl

end Sys2Proof.Machine
end

