-- ==== Sys2Proof/Laws/Ops.lean ====
section
/-! SUPPORT. What each shared operation can do, said once: the failed-state test, failure entry and the return from it,
the register-number space, and what every command does whatever it is. -/

namespace Sys2Proof.Machine

theorem unlessFailed_failed {u : PceUnit} {s body : State} (h : s.failFlag u = true) :
    unlessFailed u s body = .next (respond .failed 0#2 0#30 s) := by simp [unlessFailed, h]

theorem unlessFailed_live {u : PceUnit} {s body : State} (h : s.failFlag u = false) :
    unlessFailed u s body = .next body := by simp [unlessFailed, h]

/-- The failed-state test always answers a next state: the `FAILED` response or the command's own effect. -/
theorem unlessFailed_cases (u : PceUnit) (s body : State) :
    (s.failFlag u = true ∧ unlessFailed u s body = .next (respond .failed 0#2 0#30 s)) ∨
      (s.failFlag u = false ∧ unlessFailed u s body = .next body) := by
  cases h : s.failFlag u
  · exact .inr ⟨rfl, unlessFailed_live h⟩
  · exact .inl ⟨rfl, unlessFailed_failed h⟩

theorem raiseFailure_p (c : Cause) (s : State) :
    raiseFailure .p c s = { s with pfail := true, pcause := c.code, output := s.output ++ [⟨c, 0#2, 0#30⟩] } := rfl

theorem raiseFailure_r (c : Cause) (s : State) :
    raiseFailure .r c s = { s with rfail := true, rcause := c.code, output := s.output ++ [⟨c, 0#2, 0#30⟩] } := rfl

theorem clearFailure_p (s : State) : clearFailure .p s = { s with pfail := false, pcause := 0#4 } := rfl

theorem clearFailure_r (s : State) : clearFailure .r s = { s with rfail := false, rcause := 0#4 } := rfl

/-- A register number names something exactly when it is at most 12 (R31). -/
theorem readReg_isSome (s : State) (n : BitVec 4) : (readReg s n).isSome = decide (n.toNat ≤ 12) := by
  rcases opcode_cases n with rfl | rfl | rfl | rfl | rfl | rfl | rfl | rfl | rfl | rfl | rfl | rfl | rfl | rfl | rfl | rfl <;>
    rfl

/-- Every command answers a next state, gives one response, and leaves the constants and what the host has still to
present. -/
theorem exec_cases (i : Instr) (s : State) : ∃ (t : State) (r : Response),
    exec i s = .next t ∧ t.cfg = s.cfg ∧ t.input = s.input ∧ t.output = s.output ++ [r] := by
  cases i with
  | rdreg n =>
    rcases opcode_cases n with rfl | rfl | rfl | rfl | rfl | rfl | rfl | rfl | rfl | rfl | rfl | rfl | rfl | rfl | rfl | rfl <;>
      exact ⟨_, _, rfl, rfl, rfl, rfl⟩
  | nop => exact ⟨_, _, rfl, rfl, rfl, rfl⟩
  | pinit => exact ⟨_, _, rfl, rfl, rfl, rfl⟩
  | rinit => exact ⟨_, _, rfl, rfl, rfl, rfl⟩
  | rpush v =>
    rcases hf : s.rfail with _ | _
    · rcases hd : s.rdir with _ | _
      · simp only [exec, execRpush, unlessFailed, State.failFlag_r, hf, hd, pushByte, Bool.false_eq_true, if_false]
        split <;> exact ⟨_, _, rfl, rfl, rfl, rfl⟩
      · by_cases hv : 31 < v.toNat
        · simp only [exec, execRpush, unlessFailed, State.failFlag_r, hf, hd, aboveSym, hv]
          exact ⟨_, _, rfl, rfl, rfl, rfl⟩
        · simp only [exec, execRpush, unlessFailed, State.failFlag_r, hf, hd, aboveSym, hv, pushSym, Bool.false_eq_true,
            if_false, decide_false]
          split <;> exact ⟨_, _, rfl, rfl, rfl, rfl⟩
    · simp only [exec, execRpush, unlessFailed, State.failFlag_r, hf]
      exact ⟨_, _, rfl, rfl, rfl, rfl⟩
  | rflush =>
    rcases hf : s.rfail with _ | _
    · rcases hd : s.rdir with _ | _
      · simp only [exec, execRflush, unlessFailed, State.failFlag_r, hf, hd, flushSyms, Bool.false_eq_true, if_false]
        split <;> exact ⟨_, _, rfl, rfl, rfl, rfl⟩
      · simp only [exec, execRflush, unlessFailed, State.failFlag_r, hf, hd, flushBytes, Bool.false_eq_true, if_false,
          Bool.and_eq_true, decide_eq_true_eq]
        split_ifs <;> exact ⟨_, _, rfl, rfl, rfl, rfl⟩
    · simp only [exec, execRflush, unlessFailed, State.failFlag_r, hf]
      exact ⟨_, _, rfl, rfl, rfl, rfl⟩
  | _ =>
    rcases hf : s.pfail with _ | _ <;>
      simp only [exec, execPsym, execPhrph, execPhrpl, execPfin, execPvfy, execPfinv, execPvfyv, unlessFailed,
        State.failFlag_p, aboveSym, aboveVersion, verify, decide_eq_true_eq, hf, Bool.false_eq_true, if_false, if_true]
    all_goals first
      | exact ⟨_, _, rfl, rfl, rfl, rfl⟩
      | (split_ifs <;> exact ⟨_, _, rfl, rfl, rfl, rfl⟩)

end Sys2Proof.Machine
end

