-- ==== Sys2Proof/Laws/Numbers.lean ====
section
/-! SUPPORT. The R-unit's shifts, masks and packings as arithmetic, and the P-unit's folded term under exclusive or. -/

namespace Sys2Proof.Machine

theorem shiftLeft_or_eq (a b n : Nat) (h : b < 2 ^ n) : a <<< n ||| b = a * 2 ^ n + b := by
  rw [← Nat.shiftLeft_add_eq_or_of_lt h, Nat.shiftLeft_eq]

theorem sliceNat_eq (v hi lo : Nat) : sliceNat v hi lo = v / 2 ^ lo % 2 ^ (hi + 1 - lo) := by
  simp [sliceNat, Nat.shiftRight_eq_div_pow]

theorem packOne_eq (x : Nat) (h : x < 256) : packOne (outUnit x) = BitVec.ofNat 30 x := by
  apply BitVec.eq_of_toNat_eq
  simp [packOne, outUnit]
  omega

theorem packTwo_eq (x y : Nat) (hx : x < 256) (hy : y < 256) :
    packTwo (outUnit x) (outUnit y) = BitVec.ofNat 30 (y * 256 + x) := by
  apply BitVec.eq_of_toNat_eq
  simp only [packTwo, outUnit, BitVec.toNat_setWidth, BitVec.toNat_append, BitVec.toNat_ofNat]
  rw [shiftLeft_or_eq _ _ _ (by omega)]
  omega

theorem lowSym_toNat (v : Byte) : (lowSym v).toNat = v.toNat % 32 := by simp [lowSym]

theorem hrpHigh_toNat (c : Byte) : (hrpHigh c).toNat = c.toNat / 32 := by
  have := c.isLt
  simp [hrpHigh, BitVec.extractLsb'_toNat, Nat.shiftRight_eq_div_pow]
  omega

@[simp] theorem symByte_toNat (v : Sym) : (symByte v).toNat = v.toNat := by
  have := v.isLt
  simp [symByte]
  omega

@[simp] theorem lowSym_symByte (v : Sym) : lowSym (symByte v) = v := by
  apply BitVec.eq_of_toNat_eq
  have := v.isLt
  rw [lowSym_toNat, symByte_toNat]
  omega

@[simp] theorem aboveSym_symByte (v : Sym) : aboveSym (symByte v) = false := by
  have := v.isLt
  simp [aboveSym]
  omega

theorem genTerm_xor (a b : Bool) (g : Word30) : genTerm (a ^^ b) g = genTerm a g ^^^ genTerm b g := by
  cases a <;> cases b <;> simp [genTerm]

theorem genFold_xor (c : Config) (a b : BitVec 5) : genFold c (a ^^^ b) = genFold c a ^^^ genFold c b := by
  simp only [genFold, BitVec.getLsbD_xor, genTerm_xor]
  ac_rfl

theorem genFold_zero (c : Config) : genFold c 0#5 = 0#30 := by simp [genFold, genTerm]

theorem append_xor {n m : Nat} (a b : BitVec n) (x y : BitVec m) :
    (a ^^^ b) ++ (x ^^^ y) = (a ++ x) ^^^ (b ++ y) := by
  ext i hi
  simp only [BitVec.getElem_append, BitVec.getElem_xor]
  split <;> simp

theorem polymodFold_append (c : Config) (x : Word30) (a b : List Sym) :
    polymodFold c x (a ++ b) = polymodFold c (polymodFold c x a) b := by simp [polymodFold]

end Sys2Proof.Machine
end

