-- ==== Sys2Proof/Laws/PerInstr.lean ====
section
/-! SUPPORT. The per-instruction family RowMatch: the word of a command carries its opcode-table row's match value under
the row's mask (spec R46, spec/opcode_table.json). -/

namespace Sys2Proof.Laws.RowMatch

/-- The `mask` of the row (R46). -/
def rowMask : Instr → Word16
  | .nop => 0xFFFF#16
  | .pinit => 0xFFFF#16
  | .psym _ => 0xFF00#16
  | .phrph _ => 0xFF00#16
  | .phrpl _ => 0xFF00#16
  | .pfin _ => 0xFFFE#16
  | .pvfy _ => 0xFFFE#16
  | .pfinv _ => 0xFF00#16
  | .pvfyv _ => 0xFF00#16
  | .rinit _ => 0xFFFE#16
  | .rpush _ => 0xFF00#16
  | .rflush => 0xFFFF#16
  | .rdreg _ => 0xFFF0#16

/-- The `match` of the row (R46). -/
def rowValue : Instr → Word16
  | .nop => 0x0000#16
  | .pinit => 0x1000#16
  | .psym _ => 0x2000#16
  | .phrph _ => 0x3000#16
  | .phrpl _ => 0x4000#16
  | .pfin _ => 0x5000#16
  | .pvfy _ => 0x6000#16
  | .pfinv _ => 0x7000#16
  | .pvfyv _ => 0x8000#16
  | .rinit _ => 0x9000#16
  | .rpush _ => 0xA000#16
  | .rflush => 0xB000#16
  | .rdreg _ => 0xC000#16

/-- The word of the command matches its row. -/
def Statement (i : Instr) : Prop := encode i &&& rowMask i = rowValue i

/-- Masking off the operand byte leaves the opcode. -/
theorem mask_operand (o : BitVec 4) (v : Byte) : assembleWord o v &&& 0xFF00#16 = assembleWord o 0#8 := by
  revert o v
  decide +kernel

theorem nop : Statement .nop := rfl

theorem pinit : Statement .pinit := rfl

theorem psym (v : Byte) : Statement (.psym v) := mask_operand _ v

theorem phrph (c : Byte) : Statement (.phrph c) := mask_operand _ c

theorem phrpl (c : Byte) : Statement (.phrpl c) := mask_operand _ c

theorem pfin (k : Variant) : Statement (.pfin k) := by cases k <;> rfl

theorem pvfy (k : Variant) : Statement (.pvfy k) := by cases k <;> rfl

theorem pfinv (ver : Byte) : Statement (.pfinv ver) := mask_operand _ ver

theorem pvfyv (ver : Byte) : Statement (.pvfyv ver) := mask_operand _ ver

theorem rinit (d : Dir) : Statement (.rinit d) := by cases d <;> rfl

theorem rpush (v : Byte) : Statement (.rpush v) := mask_operand _ v

theorem rflush : Statement .rflush := rfl

theorem rdreg (n : BitVec 4) : Statement (.rdreg n) := by
  revert n
  unfold Statement
  decide

end Sys2Proof.Laws.RowMatch
end

