-- ==== Sys2Proof/Laws/Step.lean ====
section
/-! SUPPORT. What one step can do, and how runs compose. -/

namespace Sys2Proof.Machine

theorem step_idle {s : State} (h : s.input = []) : step s = .next s := by simp [step, takeEvent, h]

theorem step_reset {s : State} {rest : List HostEvent} (h : s.input = .reset :: rest) :
    step s = .next (resetBlock { s with input := rest }) := by simp [step, takeEvent, h, serve]

theorem step_legal {s : State} {w : Word16} {i : Instr} {rest : List HostEvent} (h : s.input = .command w :: rest)
    (hd : decode w = .ok i) : step s = exec i { s with input := rest } := by
  simp [step, takeEvent, h, serve, executeWord, hd]

theorem step_illegal {s : State} {w : Word16} {e : IllegalWord} {rest : List HostEvent} (h : s.input = .command w :: rest)
    (hd : decode w = .error e) : step s = .next (answerIllegal { s with input := rest }) := by
  simp [step, takeEvent, h, serve, executeWord, hd]

/-- Everything a step can do (R42, R49, R166, R170). -/
theorem step_cases {s t : State} (h : step s = .next t) :
    (s.input = [] ∧ t = s) ∨
    (∃ rest, s.input = .reset :: rest ∧ t = resetBlock { s with input := rest }) ∨
    (∃ w rest e, s.input = .command w :: rest ∧ decode w = .error e ∧ t = answerIllegal { s with input := rest }) ∨
    (∃ w rest i, s.input = .command w :: rest ∧ decode w = .ok i ∧ exec i { s with input := rest } = .next t) := by
  rcases hi : s.input with _ | ⟨e, rest⟩
  · rw [step_idle hi] at h
    exact .inl ⟨rfl, by injection h with h; exact h.symm⟩
  · cases e with
    | reset =>
      rw [step_reset hi] at h
      exact .inr (.inl ⟨rest, rfl, by injection h with h; exact h.symm⟩)
    | command w =>
      rcases hd : decode w with e | i
      · rw [step_illegal hi hd] at h
        exact .inr (.inr (.inl ⟨w, rest, e, rfl, hd, by injection h with h; exact h.symm⟩))
      · rw [step_legal hi hd] at h
        exact .inr (.inr (.inr ⟨w, rest, i, rfl, hd, h⟩))

@[simp] theorem run_zero (s : State) : run 0 s = .next s := rfl

theorem run_succ {k : Nat} {s t : State} (h : step s = .next t) : run (k + 1) s = run k t := by simp [run, h]

/-- A run cut in two. -/
theorem run_add {k l : Nat} {s t : State} (h : run k s = .next t) : run (k + l) s = run l t := by
  induction k generalizing s with
  | zero =>
    injection h with h
    simp [h]
  | succ k ih =>
    rw [Nat.succ_add]
    rcases hs : step s with u | r | r
    · rw [run_succ hs] at h ⊢
      exact ih h
    · exact nomatch r
    · simp [run, hs] at h

/-- The model's run is the host's. -/
theorem run_eq_core (k : Nat) (s : State) : run k s = Host.Core.run Sys2Proof.core k s := by
  induction k generalizing s with
  | zero => rfl
  | succ k ih =>
    have hc : Sys2Proof.core.step s = step s := rfl
    simp only [run, Host.Core.run, hc]
    cases step s with
    | next t => exact ih t
    | fault r => rfl
    | refused r => rfl

end Sys2Proof.Machine
end

