-- ==== Sys2Proof/Tests/Slice0.lean ====
section
/-! SUPPORT. The model's own tests: expected values are those of spec/95_test_vectors.md (the section stands at each
group). Then, for every statement of Certificates/Slice0/Obligations.lean that has hypotheses, concrete witnesses that
meet them. -/

namespace Sys2Proof.Tests

open Sys2Proof Sys2Proof.Machine

/-! ## Helpers -/

/-- The state an outcome gives, if it gives one. -/
def nextOf : Host.Outcome State Fault Refusal → Option State
  | .next t => some t
  | .fault _ => none
  | .refused _ => none

/-- One step on one word: the 36-bit response and the state after it, both sides of the port emptied. -/
def ask (w : Word16) (s : State) : Option (BitVec 36 × State) :=
  match step { s with input := [.command w], output := [] } with
  | .next t => (t.output.head?).map fun r => (r.word, { t with input := [], output := [] })
  | .fault _ => none
  | .refused _ => none

/-- The block after reset with `CHK` at a value. -/
def withChk (v : Word30) : State := { State.reset with chk := v }

/-- The block after reset with residual bits and a direction. -/
def withAcc (acc : BitVec 7) (bits : BitVec 3) (d : Dir) : State := { State.reset with acc := acc, bits := bits, rdir := d }

/-- The P-unit failed with `SYM_RANGE`. -/
def failedP : State := { State.reset with pfail := true, pcause := 2#4 }

/-- The R-unit failed with `PAD_NONZERO`, in direction 5→8 with two bits left. -/
def failedR : State := { withAcc 0x01#7 2#3 .fiveToEight with rfail := true, rcause := 3#4 }

/-- A state under `STRICT_PAD`. -/
def strict (s : State) : State := { s with cfg := { s.cfg with strictPad := true } }

/-- A state with commands presented. -/
def fed (is : List Instr) (s : State) : State := { s with input := eventsOf is }

/-- A string's character codes. -/
def codes (cs : List Char) : List Byte := cs.map charByte

/-! ## Well-formedness: the one check there is (R46: "n <= 12") -/

theorem test_wf_refuses_register_13 : (Instr.rdreg 13#4).wf = false := by decide

theorem test_wf_accepts_register_12 : (Instr.rdreg 12#4).wf = true := by decide

/-! ## Decoding (section 2.8), at least one word of every row -/

theorem test_decode_nop : decode 0x0000#16 = .ok .nop ∧ decode 0x0001#16 = .error .operandNotZero ∧
    decode 0x0100#16 = .error .reservedField := by decide

theorem test_decode_pinit : decode 0x1000#16 = .ok .pinit ∧ decode 0x1001#16 = .error .operandNotZero := by decide

theorem test_decode_psym : decode 0x2000#16 = .ok (.psym 0#8) ∧ decode 0x2020#16 = .ok (.psym 32#8) ∧
    decode 0x20ff#16 = .ok (.psym 255#8) ∧ decode 0x2100#16 = .error .reservedField := by decide

theorem test_decode_phrph : decode 0x3074#16 = .ok (.phrph 0x74#8) := by decide

theorem test_decode_phrpl : decode 0x40ff#16 = .ok (.phrpl 0xff#8) := by decide

theorem test_decode_pfin : decode 0x5000#16 = .ok (.pfin .a) ∧ decode 0x5001#16 = .ok (.pfin .b) ∧
    decode 0x5002#16 = .error .operandAboveOne := by decide

theorem test_decode_pvfy : decode 0x6001#16 = .ok (.pvfy .b) ∧ decode 0x6080#16 = .error .operandAboveOne := by decide

theorem test_decode_pfinv : decode 0x7011#16 = .ok (.pfinv 17#8) := by decide

theorem test_decode_pvfyv : decode 0x80ff#16 = .ok (.pvfyv 255#8) ∧ decode 0x8f00#16 = .error .reservedField := by decide

theorem test_decode_rinit : decode 0x9000#16 = .ok (.rinit .eightToFive) ∧ decode 0x9001#16 = .ok (.rinit .fiveToEight) ∧
    decode 0x9002#16 = .error .operandAboveOne := by decide

theorem test_decode_rpush : decode 0xa0ff#16 = .ok (.rpush 0xff#8) := by decide

theorem test_decode_rflush : decode 0xb000#16 = .ok .rflush ∧ decode 0xb001#16 = .error .operandNotZero := by decide

theorem test_decode_rdreg : decode 0xc000#16 = .ok (.rdreg 0#4) ∧ decode 0xc00c#16 = .ok (.rdreg 12#4) ∧
    decode 0xc00d#16 = .error .registerAboveTwelve ∧ decode 0xc00f#16 = .error .registerAboveTwelve ∧
    decode 0xc010#16 = .error .registerAboveTwelve := by decide

theorem test_decode_reserved : decode 0xd000#16 = .error .reservedOpcode ∧ decode 0xe000#16 = .error .reservedOpcode ∧
    decode 0xf000#16 = .error .reservedOpcode ∧ decode 0xffff#16 = .error .reservedField := by decide

/-- The host's two entry points on one word: the row's command, and the step that runs it first after reset. -/
theorem test_table_word : decodeTableWord 16 0xc00c = some (.rdreg 12#4) ∧ decodeTableWord 16 0xd000 = none ∧
    nextOf (step (State.reset.withFetchWord 16 0x2003)) = nextOf (exec (.psym 3#8) State.reset) := by decide

/-! ## One command from a given state: P-unit (section 2.4) -/

theorem test_pinit_leaves_failed_state :
    ask 0x1000#16 { withChk 0x15ccfe9e#30 with pfail := true, pcause := 4#4 } = some (0x000000000#36, State.reset) := by decide

theorem test_psym_largest : ask 0x201f#16 State.reset = some (0#36, withChk 0x0000003f#30) := by decide

theorem test_psym_above : ask 0x2020#16 State.reset = some (0x200000000#36, failedP) := by decide

theorem test_phrph_t : ask 0x3074#16 State.reset = some (0#36, withChk 0x00000023#30) := by decide

theorem test_phrph_ff : ask 0x30ff#16 State.reset = some (0#36, withChk 0x00000027#30) := by decide

theorem test_phrpl_a : ask 0x4061#16 (withChk 0x00000460#30) = some (0#36, withChk 0x00008c01#30) := by decide

theorem test_phrpl_ff : ask 0x40ff#16 (withChk 0x00000460#30) = some (0#36, withChk 0x00008c1f#30) := by decide

theorem test_pfin_a : ask 0x5000#16 (withChk 0x15ccfe9e#30) = some (0x015ccfe9f#36, withChk 0x15ccfe9e#30) := by decide

theorem test_pfin_b : ask 0x5001#16 (withChk 0x3fffffff#30) = some (0x01437cf5c#36, withChk 0x3fffffff#30) := by decide

theorem test_pvfy_b : ask 0x6001#16 (withChk 0x2bc830a3#30) = some (0#36, withChk 0x2bc830a3#30) := by decide

theorem test_pvfy_mismatch : ask 0x6000#16 (withChk 0x2bc830a3#30) =
    some (0x400000000#36, { withChk 0x2bc830a3#30 with pfail := true, pcause := 4#4 }) := by decide

theorem test_pfinv_zero : ask 0x7000#16 (withChk 0x07436997#30) = some (0x007436996#36, withChk 0x07436997#30) := by decide

theorem test_pfinv_bounds : ask 0x7010#16 (withChk 0x07436997#30) = some (0x02c8b5934#36, withChk 0x07436997#30) ∧
    ask 0x7011#16 (withChk 0x07436997#30) =
      some (0x500000000#36, { withChk 0x07436997#30 with pfail := true, pcause := 5#4 }) := by decide

theorem test_pvfyv_bounds : ask 0x8010#16 (withChk 0x2bc830a3#30) = some (0#36, withChk 0x2bc830a3#30) ∧
    ask 0x8011#16 (withChk 0x2bc830a3#30) =
      some (0x500000000#36, { withChk 0x2bc830a3#30 with pfail := true, pcause := 5#4 }) := by decide

theorem test_pvfyv_failed_first : ask 0x8011#16 { withChk 0x2bc830a3#30 with pfail := true, pcause := 2#4 } =
    some (0x600000000#36, { withChk 0x2bc830a3#30 with pfail := true, pcause := 2#4 }) := by decide

/-! ## One command from a given state: R-unit (section 2.7) -/

theorem test_rinit_leaves_failed_state :
    ask 0x9000#16 { withAcc 0x07#7 3#3 .eightToFive with rfail := true, rcause := 3#4 } = some (0#36, State.reset) := by decide

theorem test_rinit_direction : ask 0x9001#16 (withAcc 0x07#7 3#3 .eightToFive) = some (0#36, withAcc 0#7 0#3 .fiveToEight) := by
  decide

theorem test_rpush_bytes : ask 0xa000#16 (withAcc 0x03#7 2#3 .eightToFive) = some (0x080000018#36, State.reset) ∧
    ask 0xa055#16 (withAcc 0x0a#7 4#3 .eightToFive) = some (0x080001514#36, withAcc 0x01#7 2#3 .eightToFive) ∧
    ask 0xa020#16 State.reset = some (0x040000004#36, withAcc 0x00#7 3#3 .eightToFive) := by decide

theorem test_rpush_symbols :
    ask 0xa01f#16 (withAcc 0x03#7 2#3 .fiveToEight) = some (0#36, withAcc 0x7f#7 7#3 .fiveToEight) ∧
    ask 0xa01f#16 (withAcc 0x7f#7 7#3 .fiveToEight) = some (0x0400000ff#36, withAcc 0x0f#7 4#3 .fiveToEight) ∧
    ask 0xa020#16 (withAcc 0x7f#7 7#3 .fiveToEight) =
      some (0x200000000#36, { withAcc 0x7f#7 7#3 .fiveToEight with rfail := true, rcause := 2#4 }) := by decide

theorem test_rflush_symbol : ask 0xb000#16 (withAcc 0x07#7 3#3 .eightToFive) = some (0x04000001c#36, State.reset) ∧
    ask 0xb000#16 (withAcc 0x00#7 4#3 .eightToFive) = some (0x040000000#36, State.reset) := by decide

theorem test_rflush_padding : ask 0xb000#16 (withAcc 0x01#7 2#3 .fiveToEight) = some (0x300000000#36, failedR) ∧
    ask 0xb000#16 (withAcc 0x00#7 7#3 .fiveToEight) = some (0#36, withAcc 0#7 0#3 .fiveToEight) ∧
    ask 0xb000#16 (strict (withAcc 0x40#7 7#3 .fiveToEight)) = some (0x700000000#36,
      { strict (withAcc 0x40#7 7#3 .fiveToEight) with rfail := true, rcause := 7#4 }) := by decide

/-! ## NOP and RDREG (section 2.9) -/

theorem test_nop_in_failed_state : ask 0x0000#16 failedP = some (0#36, failedP) := by decide

theorem test_rdreg_status : ask 0xc000#16 failedP = some (0x000000021#36, failedP) ∧
    ask 0xc002#16 failedR = some (0x000000233#36, failedR) := by decide

theorem test_rdreg_constants : ask 0xc008#16 State.reset = some (0x02a1462b3#36, State.reset) ∧
    ask 0xc00a#16 State.reset = some (0x02bc830a3#36, State.reset) ∧
    ask 0xc00c#16 (strict State.reset) = some (0x000000001#36, strict State.reset) := by decide

/-! ## Illegal words and priority (sections 2.8, 2.10) -/

theorem test_illegal_before_failed : ask 0x5002#16 failedP = some (0x100000000#36, failedP) := by decide

theorem test_failed_before_range : ask 0x2020#16 failedP = some (0x600000000#36, failedP) ∧
    ask 0xa020#16 failedR = some (0x600000000#36, failedR) := by decide

theorem test_units_independent : ask 0x9001#16 failedP = some (0#36, { failedP with rdir := .fiveToEight }) ∧
    ask 0x2003#16 failedR = some (0#36, { failedR with chk := 0x00000023#30 }) := by decide

/-! ## Pure functions (sections 2.1, 2.3, 2.5, 2.6) -/

theorem test_polymod_step_entries : polymodStep Config.default 0x02000000#30 5#5 = 0x3b6a57b7#30 ∧
    polymodStep Config.default 0x3e000000#30 0#5 = 0x14cd914b#30 ∧
    polymodStep Config.default 0x15ccfe9e#30 0#5 = 0x228d6e70#30 := by decide

theorem test_checksum_create : checksumCreate Config.default (codes ['a']) [] .a = [10#5, 28#5, 25#5, 31#5, 20#5, 31#5] ∧
    checksumCreate Config.default (codes ['t', 'b']) [1#5, 14#5, 20#5, 15#5, 0#5] .b =
      [11#5, 28#5, 17#5, 13#5, 8#5, 8#5] := by decide

theorem test_regroup_symbols : regroup8to5 [0xff#8] = [31#5, 28#5] ∧
    regroup8to5 [0x01#8, 0x02#8, 0x03#8] = [0#5, 4#5, 1#5, 0#5, 6#5] := by decide

theorem test_regroup_bytes : regroup5to8 false [14#8, 20#8, 15#8, 0#8] = .ok [0x75#8, 0x1e#8] ∧
    regroup5to8 true [0#8, 0#8, 1#8] = .error .padExcess ∧ regroup5to8 false [0#8, 0#8, 1#8] = .error .padNonzero ∧
    regroup5to8 false [0#8, 32#8] = .error .symRange := by decide

/-! ## The assembler (R52, R53) -/

theorem test_assemble : assemble ['P', 'H', 'R', 'P', ' ', '"', 'a', '"', ';', ' ', 'P', 'V', 'F', 'Y', ' ', 'A'] =
    .ok [0x3061#16, 0x2000#16, 0x4061#16, 0x6000#16] := by decide

theorem test_assemble_refuses : assemble ['P', 'S', 'Y', 'M', ' ', '2', '5', '6'] = .error .operandAbove255 ∧
    assemble ['P', 'F', 'I', 'N', ' ', '2'] = .error .illegalOperand ∧
    assemble ['P', 'S', 'Y', 'M', ' ', '3', '2'] = .ok [0x2020#16] := by decide

/-! ## Witnesses: reset, the invariant, the step -/

theorem witness_reset_event : ∃ s : State, s.input = .reset :: [.command 0x2020#16] ∧ s.pfail = true ∧ s.rfail = true :=
  ⟨{ failedR with pfail := true, input := [.reset, .command 0x2020#16] }, rfl, rfl, rfl⟩

theorem witness_StepKeepsInv : ∃ s t : State, s.Inv ∧ step s = .next t ∧ t.pfail = true :=
  ⟨fed [.psym 32#8] State.reset, _, by decide, rfl, by decide⟩

theorem witness_ReachableMeetsInv : ∃ t : State,
    run 3 (resetBlock
      { State.reset with
        cfg := { Config.default with strictPad := true },
        input := eventsOf [.rinit .fiveToEight, .rpush 31#8, .rflush] }) = .next t ∧ t.rcause = 7#4 :=
  ⟨_, rfl, by decide⟩

theorem witness_StepRunsDecoded :
    (fed [.psym 3#8] State.reset).input = .command 0x2003#16 :: [] ∧ decode 0x2003#16 = .ok (.psym 3#8) ∧
      ({ State.reset with input := [.command 0x5002#16] } : State).input = .command 0x5002#16 :: [] ∧
      decode 0x5002#16 = .error .operandAboveOne := by decide

theorem witness_StepWithoutEvent : State.reset.input = [] := rfl

theorem witness_OneResponseACommand_shapes :
    (fed [.pfin .a] State.reset).input = .command 0x5000#16 :: [] ∧ decode 0x5000#16 = .ok (.pfin .a) ∧
    decode 0x7010#16 = .ok (.pfinv 16#8) ∧ decode 0xc00c#16 = .ok (.rdreg 12#4) ∧ decode 0xa0ff#16 = .ok (.rpush 0xff#8) ∧
    decode 0xb000#16 = .ok .rflush ∧ decode 0x0000#16 = .ok .nop ∧ decode 0x2020#16 = .ok (.psym 32#8) := by decide

theorem witness_OneResponseACommand_failing : ∃ (t : State) (r : Response),
    step (fed [.psym 32#8] State.reset) = .next t ∧ t.output = [] ++ [r] ∧ r.cause ≠ .ok :=
  ⟨_, ⟨.symRange, 0#2, 0#30⟩, rfl, rfl, by decide⟩

/-! ## Witnesses: decoding -/

theorem witness_IllegalWords : decode 0xd000#16 = .error .reservedOpcode ∧ decode 0xf0ff#16 = .error .reservedOpcode ∧
    decode 0x0f00#16 = .error .reservedField ∧ decode 0x00ff#16 = .error .operandNotZero ∧
    decode 0x9002#16 = .error .operandAboveOne ∧ decode 0xc00d#16 = .error .registerAboveTwelve := by decide

theorem witness_DecodeEncode : (Instr.rdreg 12#4).wf = true ∧ (Instr.psym 255#8).wf = true ∧ Instr.nop.wf = true := by decide

theorem witness_EncodeDecode : decode 0xc00c#16 = .ok (.rdreg 12#4) ∧ decode 0x6001#16 = .ok (.pvfy .b) := by decide

/-! ## Witnesses: system commands -/

theorem witness_NopEffect : (1#8 : Byte) ≠ 0#8 ∧ (255#8 : Byte) ≠ 0#8 := by decide

theorem witness_RdregEffect_numbers : (0#4).toNat ≤ 12 ∧ (12#4).toNat ≤ 12 := by decide

theorem witness_RdregEffect_illegal : 0xC00D ≤ (0xC00D#16).toNat ∧ (0xC00D#16).toNat ≤ 0xC0FF ∧
    0xC00D ≤ (0xC0FF#16).toNat ∧ (0xC0FF#16).toNat ≤ 0xC0FF := by decide

theorem witness_two_valued_operand : 0x5002 ≤ (0x5002#16).toNat ∧ (0x50FF#16).toNat ≤ 0x50FF ∧
    0x6002 ≤ (0x6002#16).toNat ∧ (0x60FF#16).toNat ≤ 0x60FF ∧ 0x9002 ≤ (0x9002#16).toNat ∧
    (0x90FF#16).toNat ≤ 0x90FF := by decide

/-! ## Witnesses: P-unit commands -/

theorem witness_failed_p : failedP.pfail = true ∧ failedP.Inv := by decide

theorem witness_PsymEffect : State.reset.pfail = false ∧ 31 < (32#8).toNat ∧ (31#8).toNat ≤ 31 := by decide

theorem witness_live_p : State.reset.pfail = false ∧ (withChk 0x3fffffff#30).pfail = false := by decide

theorem witness_PvfyEffect : State.reset.pfail = false ∧ State.reset.chk = State.reset.cfg.ka ∧
    (withChk 0x2bc830a3#30).chk = (withChk 0x2bc830a3#30).cfg.kb ∧ State.reset.chk ≠ State.reset.cfg.kb ∧
    (withChk 0x2bc830a3#30).chk ≠ (withChk 0x2bc830a3#30).cfg.ka := by decide

theorem witness_PfinvEffect : State.reset.pfail = false ∧ State.reset.cfg.versionMax < (17#8).toNat ∧
    (16#8).toNat ≤ State.reset.cfg.versionMax ∧ (0#8).toNat ≤ State.reset.cfg.versionMax := by decide

theorem witness_PvfyvEffect_match : State.reset.pfail = false ∧ (0#8).toNat ≤ State.reset.cfg.versionMax ∧
    State.reset.chk = (if (0#8).toNat = 0 then State.reset.cfg.ka else State.reset.cfg.kb) ∧
    (withChk 0x2bc830a3#30).chk = (if (16#8).toNat = 0 then State.reset.cfg.ka else State.reset.cfg.kb) := by decide

theorem witness_PvfyvEffect_mismatch : State.reset.pfail = false ∧ (16#8).toNat ≤ State.reset.cfg.versionMax ∧
    State.reset.chk ≠ (if (16#8).toNat = 0 then State.reset.cfg.ka else State.reset.cfg.kb) ∧
    State.reset.cfg.versionMax < (17#8).toNat := by decide

theorem witness_VariantOfVersion : (0#8).toNat = 0 ∧ 1 ≤ (1#8).toNat ∧ (1#8).toNat ≤ 16 ∧ (16#8).toNat ≤ 16 := by decide

/-! ## Witnesses: R-unit commands -/

theorem witness_failed_r : failedR.rfail = true ∧ failedR.Inv := by decide

theorem witness_RpushByteEffect_two :
    let s := withAcc 0x03#7 2#3 .eightToFive
    s.rfail = false ∧ s.rdir = .eightToFive ∧ s.acc.toNat < 2 ^ s.bits.toNat ∧ s.bits.toNat ≤ 4 ∧ 2 ≤ s.bits.toNat := by
  decide

theorem witness_RpushByteEffect_one :
    let s := withAcc 0x01#7 1#3 .eightToFive
    s.rfail = false ∧ s.rdir = .eightToFive ∧ s.acc.toNat < 2 ^ s.bits.toNat ∧ s.bits.toNat ≤ 4 ∧ s.bits.toNat < 2 := by
  decide

theorem witness_RpushSymEffect_byte :
    let s := withAcc 0x07#7 3#3 .fiveToEight
    s.rfail = false ∧ s.rdir = .fiveToEight ∧ (31#8).toNat ≤ 31 ∧ s.acc.toNat < 2 ^ s.bits.toNat ∧ 3 ≤ s.bits.toNat := by
  decide

theorem witness_RpushSymEffect_none :
    let s := withAcc 0x03#7 2#3 .fiveToEight
    s.rfail = false ∧ s.rdir = .fiveToEight ∧ (31#8).toNat ≤ 31 ∧ s.acc.toNat < 2 ^ s.bits.toNat ∧ s.bits.toNat < 3 ∧
      31 < (32#8).toNat := by decide

theorem witness_RflushSymEffect :
    let s := withAcc 0x0f#7 4#3 .eightToFive
    s.rfail = false ∧ s.rdir = .eightToFive ∧ s.acc.toNat < 2 ^ s.bits.toNat ∧ s.bits.toNat ≤ 4 ∧ 0 < s.bits.toNat ∧
      (State.reset.acc.toNat < 2 ^ State.reset.bits.toNat ∧ State.reset.bits.toNat = 0) := by decide

theorem witness_RflushByteEffect_excess :
    let s := strict (withAcc 0x00#7 5#3 .fiveToEight)
    s.rfail = false ∧ s.rdir = .fiveToEight ∧ s.cfg.strictPad = true ∧ 5 ≤ s.bits.toNat := by decide

theorem witness_RflushByteEffect_nonzero :
    let s := strict (withAcc 0x0f#7 4#3 .fiveToEight)
    let u := withAcc 0x40#7 7#3 .fiveToEight
    s.rfail = false ∧ s.rdir = .fiveToEight ∧ s.bits.toNat < 5 ∧ s.acc.toNat ≠ 0 ∧
      u.cfg.strictPad = false ∧ u.acc.toNat ≠ 0 := by decide

theorem witness_RflushByteEffect_zero :
    let s := strict (withAcc 0x00#7 4#3 .fiveToEight)
    let u := withAcc 0x00#7 7#3 .fiveToEight
    s.rfail = false ∧ s.rdir = .fiveToEight ∧ s.bits.toNat < 5 ∧ s.acc.toNat = 0 ∧
      u.cfg.strictPad = false ∧ u.acc.toNat = 0 := by decide

/-! ## Witnesses: failures and the two units -/

theorem witness_FailureEntry_p : ∃ (t : State) (r : Response),
    exec (.psym 32#8) State.reset = .next t ∧ t.output = State.reset.output ++ [r] ∧ r.cause.sticky = true :=
  ⟨_, ⟨.symRange, 0#2, 0#30⟩, rfl, rfl, rfl⟩

theorem witness_FailureEntry_r : ∃ (t : State) (r : Response),
    exec .rflush (withAcc 0x01#7 2#3 .fiveToEight) = .next t ∧
      t.output = (withAcc 0x01#7 2#3 .fiveToEight).output ++ [r] ∧ r.cause.sticky = true :=
  ⟨_, ⟨.padNonzero, 0#2, 0#30⟩, rfl, rfl, rfl⟩

theorem witness_FailedStateIgnores : (Instr.psym 3#8).wf = true ∧ unitOf (.psym 3#8) = some .p ∧
    skipsFailedTest (.psym 3#8) = false ∧ failedP.pfail = true ∧ unitOf .rflush = some .r ∧
    skipsFailedTest .rflush = false ∧ failedR.rfail = true ∧ unitOf .nop = none ∧
    (Instr.rdreg 12#4).wf = true ∧ unitOf (.rdreg 12#4) = none := by decide

theorem witness_FailedStateStays_failed : ∃ t u : State,
    step (fed [.rinit .fiveToEight] failedP) = .next t ∧ failedP.pfail = true ∧
      (fed [.rinit .fiveToEight] failedP).input.head? ≠ some .reset ∧
      (fed [.rinit .fiveToEight] failedP).input.head? ≠ some (.command 0x1000#16) ∧
      step (fed [.pinit] failedR) = .next u ∧ failedR.rfail = true ∧
      (fed [.pinit] failedR).input.head? ≠ some .reset ∧
      (fed [.pinit] failedR).input.head? ≠ some (.command 0x9000#16) ∧
      (fed [.pinit] failedR).input.head? ≠ some (.command 0x9001#16) :=
  ⟨_, _, rfl, rfl, by decide, by decide, rfl, rfl, by decide, by decide, by decide⟩

theorem witness_FailedStateStays_left :
    ({ failedP with input := [.reset] } : State).input.head? = some .reset ∧
      (fed [.pinit] failedP).input.head? = some (.command 0x1000#16) ∧
      (fed [.rinit .eightToFive] failedR).input.head? = some (.command 0x9000#16) ∧
      (fed [.rinit .fiveToEight] failedR).input.head? = some (.command 0x9001#16) := by decide

theorem witness_FailedStateIgnores_other : ∃ t u : State, exec (.rpush 0xff#8) State.reset = .next t ∧
    exec (.psym 3#8) State.reset = .next u ∧ (Instr.rpush 0xff#8).wf = true :=
  ⟨_, _, rfl, rfl, rfl⟩

theorem witness_FailedStateStays_illegal : ∃ t : State,
    step { failedP with input := [.command 0x5002#16] } = .next t ∧ decode 0x5002#16 = .error .operandAboveOne :=
  ⟨_, rfl, rfl⟩

theorem witness_UnitsShareNothing : ∃ t t' u u' : State,
    unitOf (.psym 3#8) = some .p ∧ State.reset.cfg = failedR.cfg ∧ State.sameUnit .p State.reset failedR ∧
      exec (.psym 3#8) State.reset = .next t ∧ exec (.psym 3#8) failedR = .next t' ∧
      unitOf (.rpush 0xff#8) = some .r ∧ State.reset.cfg = failedP.cfg ∧ State.sameUnit .r State.reset failedP ∧
      exec (.rpush 0xff#8) State.reset = .next u ∧ exec (.rpush 0xff#8) failedP = .next u' :=
  ⟨_, _, _, _, rfl, rfl, by decide, rfl, rfl, rfl, rfl, by decide, rfl, rfl⟩

theorem witness_NeighboursSwap : ∃ a b a' b' : State,
    unitOf (.psym 32#8) = some .p ∧ unitOf (.rpush 0xff#8) = some .r ∧
      exec (.psym 32#8) State.reset = .next a ∧ exec (.rpush 0xff#8) a = .next b ∧
      exec (.rpush 0xff#8) State.reset = .next a' ∧ exec (.psym 32#8) a' = .next b' :=
  ⟨_, _, _, _, rfl, rfl, rfl, rfl, rfl, rfl⟩

theorem witness_ConstantsFixed : ∃ t u v : State,
    step (fed [.psym 3#8] State.reset) = .next t ∧ run 2 (fed [.psym 3#8, .rinit .fiveToEight] State.reset) = .next u ∧
      unitOf (.rdreg 4#4) = none ∧ exec (.rdreg 4#4) failedP = .next v :=
  ⟨_, _, _, rfl, rfl, rfl, rfl⟩

/-! ## Witnesses: the polymod (section 2.3) -/

/-- The data and checksum symbols of section 2.3's valid example for `tb` under variant B. -/
def validTb : List Sym := [1#5, 14#5, 20#5, 15#5, 0#5, 11#5, 28#5, 17#5, 13#5, 8#5, 8#5]

theorem witness_PolymodLinear : [1#5, 2#5].length = ([3#5, 31#5] : List Sym).length := rfl

theorem witness_CreatedChecksumVerifies : [11#5, 28#5, 17#5, 13#5, 8#5, 8#5].length = 6 ∧
    checksumVerify Config.default (codes ['t', 'b']) ([1#5, 14#5, 20#5, 15#5, 0#5] ++ [11#5, 28#5, 17#5, 13#5, 8#5, 8#5]) .b =
      true := by decide

theorem witness_VariantBinding : Config.default.ka ≠ Config.default.kb ∧ Variant.a ≠ Variant.b := by decide

theorem witness_SubstitutionDetected : (14#5 : Sym) ≠ 0#5 ∧
    checksumVerify Config.default (codes ['t', 'b']) ([1#5] ++ 14#5 :: validTb.drop 2) .b = true ∧
    (8#5 : Sym) ≠ 9#5 ∧ checksumVerify Config.default (codes ['t', 'b']) (validTb.take 10 ++ 8#5 :: []) .b = true := by decide

theorem witness_HrpSubstitutionDetected : (0x62#8 : Byte) ≠ 0x63#8 ∧ (codes ['t'] ++ 0x62#8 :: []).length ≤ 198 ∧
    checksumVerify Config.default (codes ['t'] ++ 0x62#8 :: []) validTb .b = true := by decide

theorem witness_PolymodStream :
    let is : List Instr := [.phrph 0x61#8, .nop, .psym 31#8, .rdreg 12#4, .rpush 0xff#8, .pfin .a]
    let s := fed is State.reset
    s.pfail = false ∧ s.chk = s.cfg.chkInit ∧ s.input = eventsOf is ∧ (∀ i ∈ is, i.wf = true ∧ inPolymodStream i = true) ∧
      ∃ (t : State) (rs : List Response), runAll s = .next t ∧ t.output = s.output ++ rs ∧ rs.length = is.length ∧
        ∀ p ∈ is.zip rs, finishing p.1 = true → p.2.cause = .ok :=
  ⟨rfl, rfl, rfl, by decide, _, _, rfl, rfl, rfl, by decide⟩

theorem witness_PhrpFeedsExpansion : (fed (pHrp (codes ['t', 'b'])) State.reset).pfail = false ∧
    (fed (pHrp (codes ['t', 'b'])) State.reset).input = eventsOf (pHrp (codes ['t', 'b'])) := by decide

theorem witness_CreateSequence :
    (fed (createSeq (codes ['a']) (List.map symByte []) .a) failedP).input = eventsOf (createSeq (codes ['a']) (List.map symByte []) .a) ∧
    (fed (createSeqVersion (codes ['a']) (List.map symByte [1#5]) 17#8) failedP).input =
      eventsOf (createSeqVersion (codes ['a']) (List.map symByte [1#5]) 17#8) ∧
    failedP.cfg.versionMax < (17#8).toNat := by decide

theorem witness_VerifySequence :
    (fed (verifySeq (codes ['t', 'b']) (validTb.map symByte) .b) failedP).input =
      eventsOf (verifySeq (codes ['t', 'b']) (validTb.map symByte) .b) ∧
    (fed (verifySeqVersion (codes ['t', 'b']) [32#8] 17#8) failedP).input = eventsOf (verifySeqVersion (codes ['t', 'b']) [32#8] 17#8) ∧
    [32#8].any (fun v : Byte => decide (31 < v.toNat)) = true := by decide

/-! ## Witnesses: the regrouper (sections 2.5, 2.6) -/

theorem witness_RegroupLengths : regroup5to8 false [14#8, 20#8, 15#8, 0#8] = .ok [0x75#8, 0x1e#8] := by decide

theorem witness_RegroupOtherWay :
    regroup5to8 true (List.map symByte [14#5, 20#5, 15#5, 0#5]) = .ok [0x75#8, 0x1e#8] ∧
      5 * ([14#5, 20#5, 15#5, 0#5] : List Sym).length % 8 < 5 ∧
      regroup5to8 false (List.map symByte [0#5, 1#5, 2#5, 3#5, 4#5, 5#5, 6#5, 7#5, 0#5]) =
        .ok [0x00#8, 0x44#8, 0x32#8, 0x14#8, 0xc7#8] ∧
      5 ≤ 5 * ([0#5, 1#5, 2#5, 3#5, 4#5, 5#5, 6#5, 7#5, 0#5] : List Sym).length % 8 := by decide

theorem witness_ConvertToSymbolsStream :
    let is : List Instr := [.nop, .rinit .eightToFive, .psym 32#8, .rpush 0xff#8, .rdreg 12#4, .rflush]
    (∀ i ∈ is, i.wf = true) ∧ (fed is failedR).input = eventsOf is ∧
      regroupPart is = convertSeq .eightToFive [0xff#8] := by decide

theorem witness_ConvertToBytesStream_ok :
    let is : List Instr := [.rinit .fiveToEight, .pinit, .rpush 31#8, .rpush 28#8, .nop, .rflush]
    (∀ i ∈ is, i.wf = true) ∧ (fed is failedR).input = eventsOf is ∧
      regroupPart is = convertSeq .fiveToEight [31#8, 28#8] ∧
      regroup5to8 (fed is failedR).cfg.strictPad [31#8, 28#8] = .ok [0xff#8] := by decide

theorem witness_ConvertToBytesStream_fails :
    let is : List Instr := [.rinit .fiveToEight, .rpush 0#8, .rpush 32#8, .nop, .rpush 1#8, .rflush]
    (∀ i ∈ is, i.wf = true) ∧ (fed is State.reset).input = eventsOf is ∧
      regroupPart is = convertSeq .fiveToEight [0#8, 32#8, 1#8] ∧
      regroup5to8 (fed is State.reset).cfg.strictPad [0#8, 32#8, 1#8] = .error .symRange ∧
      regroup5to8 (strict State.reset).cfg.strictPad [0#8] = .error .padExcess := by decide

theorem witness_RseqAlone :
    let s := fed (rSeq [0xff#8]) State.reset
    let u := fed (rSeq [31#8, 28#8]) (withAcc 0#7 0#3 .fiveToEight)
    s.acc = 0#7 ∧ s.bits = 0#3 ∧ s.rfail = false ∧ s.rcause = 0#4 ∧ s.input = eventsOf (rSeq [0xff#8]) ∧
      s.rdir = .eightToFive ∧ u.acc = 0#7 ∧ u.bits = 0#3 ∧ u.rfail = false ∧ u.rcause = 0#4 ∧
      u.input = eventsOf (rSeq [31#8, 28#8]) ∧ u.rdir = .fiveToEight ∧
      regroup5to8 u.cfg.strictPad [31#8, 28#8] = .ok [0xff#8] := by decide

theorem witness_RseqAlone_fails :
    let s := fed (rSeq [31#8, 29#8]) (withAcc 0#7 0#3 .fiveToEight)
    s.acc = 0#7 ∧ s.bits = 0#3 ∧ s.rfail = false ∧ s.rcause = 0#4 ∧ s.input = eventsOf (rSeq [31#8, 29#8]) ∧
      s.rdir = .fiveToEight ∧ regroup5to8 s.cfg.strictPad [31#8, 29#8] = .error .padNonzero := by decide

/-! ## Witnesses: the assembler and the codec -/

theorem witness_AssembledWordsLegal :
    assemble ['R', 'S', 'E', 'Q', ' ', '[', '2', '5', '5', ']'] = .ok [0xa0ff#16, 0xb000#16] := by decide

/-- An Address with the program of section 2.3's `tb` example. -/
def sampleAddress : Address := { hrp := codes ['t', 'b'], version := 1#8, program := [0x75#8, 0x1e#8] }

theorem witness_CodecRoundTrip : Config.default.versionMax ≤ 31 ∧ sampleAddress.valid Config.default = true ∧
    lowerString sampleAddress.hrp = sampleAddress.hrp ∧
    ({ sampleAddress with hrp := codes ['T', 'B'] } : Address).valid Config.default = true := by decide

/-- The string P5 of section 3 decodes to the Address, and the Address encodes to it; so the premises of the second and
third clause of CodecRoundTrip are met. -/
theorem test_codec_string :
    let str := codes ['t', 'b', '1', 'p', 'w', '5', '0', 'q', 't', 'u', '3', 'd', 'g', 'g']
    encodeString Config.default sampleAddress.hrp sampleAddress.version sampleAddress.program = some str ∧
      decodeString Config.default str = some sampleAddress := by decide +kernel

/-- A wrong overall length is an encode failure (R130, R145): the longest hrp with a 40-byte program. With a
40-byte program 18 + 1 + 1 + 64 + 6 = 90 fits and one character more does not (R126). -/
theorem test_encode_total_length :
    encodeString Config.default (List.replicate 83 0x61#8) 1#8 (List.replicate 40 0#8) = none ∧
      (encodeString Config.default (List.replicate 18 0x61#8) 1#8 (List.replicate 40 0#8)).isSome = true ∧
      encodeString Config.default (List.replicate 19 0x61#8) 1#8 (List.replicate 40 0#8) = none ∧
      Address.string Config.default ⟨List.replicate 83 0x61#8, 1#8, List.replicate 40 0#8⟩ = [] := by decide +kernel

/-- No decoded Address has the separator in its hrp (R127): the string below passes steps 1 to 8, its checksum verifies,
and is rejected. -/
theorem test_decode_separator_in_hrp :
    let h := codes ['a', '1', 'b']
    let d := 1#5 :: regroup8to5 [0x75#8, 0x1e#8]
    let dv := d ++ checksumCreate Config.default h d .b
    checksumVerify Config.default h dv .b = true ∧
      decodeString Config.default (h ++ [separator] ++ dv.map charOf) = none := by decide +kernel

/-- Expected-hrp mismatch (R147, R145), and the case-normalized match (R142). -/
theorem test_decode_expected_hrp :
    let str := codes ['t', 'b', '1', 'p', 'w', '5', '0', 'q', 't', 'u', '3', 'd', 'g', 'g']
    isValidFor Config.default str (codes ['b', 'c']) = false ∧
      decodeStringFor Config.default str (codes ['T', 'B']) = some sampleAddress := by decide +kernel

theorem witness_EncodeOnBlock :
    let s := fed (encodeRegroup [0x75#8, 0x1e#8] ++
      encodeChecksum (codes ['t', 'b']) 16#8 ((regroup8to5 [0x75#8, 0x1e#8]).map symByte)) failedP
    (16#8).toNat ≤ s.cfg.versionMax ∧ (16#8).toNat ≤ 31 ∧ s.input = eventsOf (encodeRegroup [0x75#8, 0x1e#8] ++
      encodeChecksum (codes ['t', 'b']) 16#8 ((regroup8to5 [0x75#8, 0x1e#8]).map symByte)) := by decide

theorem witness_DecodeOnBlock : ∃ (t : State) (rs : List Response),
    let s := fed (decodeVerify (codes ['t', 'b']) (validTb.map symByte) ++ decodeRegroup (validTb.map symByte)) failedR
    s.input = eventsOf (decodeVerify (codes ['t', 'b']) ((1#5 :: validTb.drop 1).map symByte) ++
      decodeRegroup ((1#5 :: validTb.drop 1).map symByte)) ∧
    runAll s = .next t ∧ t.output = s.output ++ rs ∧ (∀ r ∈ rs, r.cause = .ok) ∧
    regroup5to8 s.cfg.strictPad (((validTb.drop 1).take 4).map symByte) = .ok [0x75#8, 0x1e#8] :=
  ⟨_, _, rfl, rfl, rfl, by decide, by decide⟩

end Sys2Proof.Tests
end

section
/-! PROOFS. Facts that the proofs below share: when registers agree, the commands of the R-unit case by case, decoding
what the encoder gives, and what a run keeps. -/

namespace Sys2Proof.Machine

/-! ### Agreement of a unit's registers -/

theorem sameP_refl (s : State) : s.sameP s := ⟨rfl, rfl, rfl⟩

theorem sameR_refl (s : State) : s.sameR s := ⟨rfl, rfl, rfl, rfl, rfl⟩

theorem sameP_symm {s t : State} : s.sameP t → t.sameP s
  | ⟨hchk, hfail, hcause⟩ => ⟨hchk.symm, hfail.symm, hcause.symm⟩

theorem sameR_symm {s t : State} : s.sameR t → t.sameR s
  | ⟨hacc, hbits, hdir, hfail, hcause⟩ => ⟨hacc.symm, hbits.symm, hdir.symm, hfail.symm, hcause.symm⟩

theorem sameP_trans {s t v : State} : s.sameP t → t.sameP v → s.sameP v
  | ⟨hchk, hfail, hcause⟩, ⟨hchk', hfail', hcause'⟩ => ⟨hchk.trans hchk', hfail.trans hfail', hcause.trans hcause'⟩

theorem sameR_trans {s t v : State} : s.sameR t → t.sameR v → s.sameR v
  | ⟨hacc, hbits, hdir, hfail, hcause⟩, ⟨hacc', hbits', hdir', hfail', hcause'⟩ =>
    ⟨hacc.trans hacc', hbits.trans hbits', hdir.trans hdir', hfail.trans hfail', hcause.trans hcause'⟩

/-! ### Bit fields and commands -/

/-- Fields side by side are the sum of the shifted fields (R7). -/
theorem toNat_append_eq {n m : Nat} (x : BitVec n) (y : BitVec m) : (x ++ y).toNat = x.toNat * 2 ^ m + y.toNat := by
  rw [BitVec.toNat_append, shiftLeft_or_eq _ _ _ y.isLt]

/-- The residual bits with `w` more bits behind them: `t` of R89 and R90, `acc` of R85 and R86. -/
def joinBits (acc w v : Nat) : Nat := (acc <<< w) ||| v

/-- `RPUSH` of a byte over two residual bits or more gives two symbols. -/
theorem pushByte_of_two_le {v : Byte} {s : State} (h : 2 ≤ s.bits.toNat) :
    pushByte v s =
      respond .ok 2#2
        (packTwo (outUnit (sliceNat (joinBits s.acc.toNat 8 v.toNat) (s.bits.toNat + 7) (s.bits.toNat + 3)))
          (outUnit (sliceNat (joinBits s.acc.toNat 8 v.toNat) (s.bits.toNat + 2) (s.bits.toNat - 2))))
        (setResidual (joinBits s.acc.toNat 8 v.toNat) (s.bits.toNat - 2) s) := by
  simp only [pushByte]
  rw [if_pos (by omega)]
  rfl

/-- `RPUSH` of a byte over fewer residual bits gives one symbol. -/
theorem pushByte_of_lt_two {v : Byte} {s : State} (h : s.bits.toNat < 2) :
    pushByte v s =
      respond .ok 1#2
        (packOne (outUnit (sliceNat (joinBits s.acc.toNat 8 v.toNat) (s.bits.toNat + 7) (s.bits.toNat + 3))))
        (setResidual (joinBits s.acc.toNat 8 v.toNat) (s.bits.toNat + 3) s) := by
  simp only [pushByte]
  rw [if_neg (by omega)]
  rfl

/-- `RPUSH` of a symbol that completes a byte. -/
theorem pushSym_of_three_le {v : Sym} {s : State} (h : 3 ≤ s.bits.toNat) :
    pushSym v s =
      respond .ok 1#2
        (packOne (outUnit (sliceNat (joinBits s.acc.toNat 5 v.toNat) (s.bits.toNat + 4) (s.bits.toNat - 3))))
        (setResidual (joinBits s.acc.toNat 5 v.toNat) (s.bits.toNat - 3) s) := by
  simp only [pushSym]
  rw [if_pos (by omega)]
  rfl

/-- `RPUSH` of a symbol that completes none. -/
theorem pushSym_of_lt_three {v : Sym} {s : State} (h : s.bits.toNat < 3) :
    pushSym v s =
      respond .ok 0#2 packNone (setResidual (joinBits s.acc.toNat 5 v.toNat) (s.bits.toNat + 5) s) := by
  simp only [pushSym]
  rw [if_neg (by omega)]
  rfl

/-- `NOP` and `RDREG` do nothing but answer. -/
theorem exec_of_unitOf_none {i : Instr} (h : unitOf i = none) (s : State) :
    ∃ c d, exec i s = .next (respond c 0#2 d s) := by
  cases i with
  | nop => exact ⟨_, _, rfl⟩
  | rdreg n =>
    simp only [exec, execRdreg]
    split <;> exact ⟨_, _, rfl⟩
  | _ => simp [unitOf] at h

/-- The decoder reads back the word of every command of the block. -/
theorem decode_encode_of_wf {i : Instr} (h : i.wf = true) : decode (encode i) = .ok i := by
  cases i with
  | rdreg n =>
    revert n
    decide
  | pfin k => cases k <;> rfl
  | pvfy k => cases k <;> rfl
  | rinit d => cases d <;> rfl
  | _ =>
    simp only [encode, decode_assembleWord]
    rfl

/-- What every step keeps is kept by a run. -/
theorem run_keeps {P : State → Prop} (hstep : ∀ s t, P s → step s = .next t → P t) {k : Nat} {s t : State} (hs : P s)
    (h : run k s = .next t) : P t := by
  induction k generalizing s with
  | zero =>
    injection h with h
    exact h ▸ hs
  | succ k ih =>
    rcases hu : step s with u | r | r
    · exact ih (hstep s u hs hu) (run_succ hu ▸ h)
    · exact nomatch r
    · simp [run, hu] at h

end Sys2Proof.Machine
end

section
/-! PROOFS. The invariant of R24: what each operation must be given to keep it, that every command and every step keeps
it, and that it holds wherever a run from reset gets to. -/

namespace Sys2Proof.Machine

/-! ### The operations and the invariant -/

/-- R24 (b). -/
theorem bits_le_of_inv {s : State} : s.Inv → s.rdir = .eightToFive → s.bits.toNat ≤ 4
  | ⟨_, hbits, _⟩ => hbits

@[simp] theorem inv_respond {c : Cause} {n : BitVec 2} {d : Word30} {s : State} : (respond c n d s).Inv ↔ s.Inv :=
  Iff.rfl

@[simp] theorem inv_respondOk {s : State} : (respondOk s).Inv ↔ s.Inv := Iff.rfl

@[simp] theorem inv_answerIllegal {s : State} : (answerIllegal s).Inv ↔ s.Inv := Iff.rfl

@[simp] theorem inv_stepChk {v : Sym} {s : State} : (stepChk v s).Inv ↔ s.Inv := Iff.rfl

@[simp] theorem inv_finish {k : Variant} {s : State} : (finish k s).Inv ↔ s.Inv := Iff.rfl

/-- Failure entry of the P-unit keeps the invariant for the P-unit's three causes in R24 (e). -/
theorem inv_raiseFailure_p {c : Cause} {s : State} (h : s.Inv) (hc : c = .symRange ∨ c = .checksum ∨ c = .version) :
    (raiseFailure .p c s).Inv := by
  obtain ⟨hacc, hbits, -, hr, -, hrc, hpad⟩ := h
  rcases hc with rfl | rfl | rfl <;> exact ⟨hacc, hbits, by simp [Cause.code], hr, by simp [Cause.code], hrc, hpad⟩

/-- Failure entry of the R-unit keeps it for its three causes in R24 (e), `PAD_EXCESS` under `STRICT_PAD` only (f). -/
theorem inv_raiseFailure_r {c : Cause} {s : State} (h : s.Inv)
    (hc : c = .symRange ∨ c = .padNonzero ∨ c = .padExcess ∧ s.cfg.strictPad = true) : (raiseFailure .r c s).Inv := by
  obtain ⟨hacc, hbits, hp, -, hpc, -, -⟩ := h
  rcases hc with rfl | rfl | ⟨rfl, hs⟩
  · exact ⟨hacc, hbits, hp, by simp [Cause.code], hpc, by simp [Cause.code], by simp [Cause.code]⟩
  · exact ⟨hacc, hbits, hp, by simp [Cause.code], hpc, by simp [Cause.code], by simp [Cause.code]⟩
  · exact ⟨hacc, hbits, hp, by simp [Cause.code], hpc, by simp [Cause.code], fun _ => hs⟩

theorem inv_clearFailure {u : PceUnit} {s : State} (h : s.Inv) : (clearFailure u s).Inv := by
  obtain ⟨hacc, hbits, hp, hr, hpc, hrc, hpad⟩ := h
  cases u with
  | p => exact ⟨hacc, hbits, by simp, hr, by simp, hrc, hpad⟩
  | r => exact ⟨hacc, hbits, hp, by simp, hpc, by simp, by simp⟩

/-- Residual bits in a number the direction allows keep the invariant, whatever the bits are: they are masked. -/
theorem inv_setResidual {t n : Nat} {s : State} (h : s.Inv) (hn : n ≤ 7) (hd : s.rdir = .eightToFive → n ≤ 4) :
    (setResidual t n s).Inv := by
  obtain ⟨-, -, hp, hr, hpc, hrc, hpad⟩ := h
  have hbits : (BitVec.ofNat 3 n).toNat = n := by simp; omega
  have hacc : (BitVec.ofNat 7 (t &&& (2 ^ n - 1))).toNat < 2 ^ n := by
    rw [Nat.and_two_pow_sub_one_eq_mod, BitVec.toNat_ofNat]
    exact (Nat.mod_le _ _).trans_lt (Nat.mod_lt _ (Nat.two_pow_pos n))
  exact ⟨by rwa [setResidual_acc, setResidual_bits, hbits], by rwa [setResidual_bits, hbits], hp, hr, hpc, hrc, hpad⟩

/-- No residual bits, in whichever direction, keep the invariant. -/
theorem inv_clearResidual {d : Dir} {s : State} (h : s.Inv) : ({ clearResidual s with rdir := d } : State).Inv := by
  obtain ⟨-, -, hp, hr, hpc, hrc, hpad⟩ := h
  exact ⟨by simp, by simp, hp, hr, hpc, hrc, hpad⟩

theorem inv_resetBlock (s : State) : (resetBlock s).Inv := by simp [State.Inv]

theorem inv_unlessFailed {u : PceUnit} {s body t : State} (h : s.Inv) (hb : body.Inv)
    (ht : unlessFailed u s body = .next t) : t.Inv := by
  rcases unlessFailed_cases u s body with ⟨-, hu⟩ | ⟨-, hu⟩ <;> rw [hu] at ht <;> injection ht with ht <;> subst ht
  · exact h
  · exact hb

/-! ### The commands and the invariant -/

theorem inv_verify {k : Variant} {s : State} (h : s.Inv) : (verify k s).Inv := by
  unfold verify
  split
  · exact h
  · exact inv_raiseFailure_p h (.inr (.inl rfl))

theorem inv_pushByte {v : Byte} {s : State} (h : s.Inv) (hd : s.rdir = .eightToFive) : (pushByte v s).Inv := by
  have hbits := bits_le_of_inv h hd
  rcases Nat.lt_or_ge s.bits.toNat 2 with hn | hn
  · rw [pushByte_of_lt_two hn]
    exact inv_respond.2 (inv_setResidual h (by omega) (by omega))
  · rw [pushByte_of_two_le hn]
    exact inv_respond.2 (inv_setResidual h (by omega) (by omega))

theorem inv_pushSym {v : Sym} {s : State} (h : s.Inv) (hd : s.rdir = .fiveToEight) : (pushSym v s).Inv := by
  have hbits := s.bits.isLt
  rcases Nat.lt_or_ge s.bits.toNat 3 with hn | hn
  · rw [pushSym_of_lt_three hn]
    exact inv_respond.2 (inv_setResidual h (by omega) (by simp [hd]))
  · rw [pushSym_of_three_le hn]
    exact inv_respond.2 (inv_setResidual h (by omega) (by omega))

theorem inv_flushSyms {s : State} (h : s.Inv) : (flushSyms s).Inv := by
  unfold flushSyms
  split
  · exact inv_respond.2 (inv_clearResidual h)
  · exact h

theorem inv_flushBytes {s : State} (h : s.Inv) : (flushBytes s).Inv := by
  unfold flushBytes
  split_ifs with hpad hacc
  · exact inv_raiseFailure_r h (.inr (.inr ⟨rfl, by simp_all⟩))
  · exact inv_raiseFailure_r h (.inr (.inl rfl))
  · exact inv_respondOk.2 (inv_clearResidual h)

/-- Every command keeps the invariant. -/
theorem exec_keeps_inv {i : Instr} {s t : State} (h : s.Inv) (ht : exec i s = .next t) : t.Inv := by
  cases i with
  | nop =>
    injection ht with ht
    exact ht ▸ h
  | rdreg n =>
    obtain ⟨c, d, he⟩ := exec_of_unitOf_none (i := .rdreg n) rfl s
    rw [he] at ht
    injection ht with ht
    exact ht ▸ h
  | pinit =>
    injection ht with ht
    exact ht ▸ inv_clearFailure (s := { s with chk := s.cfg.chkInit }) h
  | psym v =>
    refine inv_unlessFailed h ?_ ht
    split
    · exact inv_raiseFailure_p h (.inl rfl)
    · exact h
  | phrph c => exact inv_unlessFailed h (inv_stepChk.2 h) ht
  | phrpl c => exact inv_unlessFailed h (inv_stepChk.2 h) ht
  | pfin k => exact inv_unlessFailed h (inv_finish.2 h) ht
  | pvfy k => exact inv_unlessFailed h (inv_verify h) ht
  | pfinv ver =>
    refine inv_unlessFailed h ?_ ht
    split
    · exact inv_raiseFailure_p h (.inr (.inr rfl))
    · exact h
  | pvfyv ver =>
    refine inv_unlessFailed h ?_ ht
    split
    · exact inv_raiseFailure_p h (.inr (.inr rfl))
    · exact inv_verify h
  | rinit d =>
    injection ht with ht
    exact ht ▸ inv_clearFailure (inv_clearResidual (d := d) h)
  | rpush v =>
    refine inv_unlessFailed h ?_ ht
    cases hd : s.rdir with
    | eightToFive => exact inv_pushByte h hd
    | fiveToEight =>
      dsimp only
      split
      · exact inv_raiseFailure_r h (.inl rfl)
      · exact inv_pushSym h hd
  | rflush =>
    refine inv_unlessFailed h ?_ ht
    cases s.rdir with
    | eightToFive => exact inv_flushSyms h
    | fiveToEight => exact inv_flushBytes h

/-! ### The obligations -/

/-- Settles O3: reset clears the residual bits, the flags and the causes. -/
theorem resetMeetsInv : Obligations.ResetMeetsInv := ⟨inv_resetBlock State.reset, inv_resetBlock⟩

/-- Settles O4, by what a step can do: nothing, a reset, the answer to an illegal word, or a command. -/
theorem stepKeepsInv : Obligations.StepKeepsInv := by
  intro s t h hstep
  rcases step_cases hstep with ⟨-, rfl⟩ | ⟨rest, -, rfl⟩ | ⟨w, rest, e, -, -, rfl⟩ | ⟨w, rest, i, -, -, hexec⟩
  · exact h
  · exact inv_resetBlock _
  · exact inv_answerIllegal.2 h
  · exact exec_keeps_inv (s := { s with input := rest }) h hexec

/-- Settles O5, by induction on the number of steps. -/
theorem reachableMeetsInv : Obligations.ReachableMeetsInv :=
  fun _ _ _ _ hrun => run_keeps stepKeepsInv (inv_resetBlock _) hrun

/-- Settles O1: both sides of the table are computed. -/
theorem resetLeavesTheTable : Obligations.ResetLeavesTheTable :=
  ⟨by decide, fun _ => ⟨_, _, rfl, rfl, rfl, rfl, rfl, rfl, rfl, rfl, rfl, rfl⟩⟩

end Sys2Proof.Machine
end

section
/-! PROOFS. The two units (R10, D25): a command of one unit, run in two states that differ at most in the other unit and
in the port, does the same to both, and keeps the other unit. Every case is an application of a rule for the operation it
is made of. -/

namespace Sys2Proof.Machine

/-! ### What a command finds and what it leaves -/

/-- Two states in which a command of unit `u` finds the same: the constants and the unit's own registers. -/
def AgreeOn (u : PceUnit) (s s' : State) : Prop := s.cfg = s'.cfg ∧ State.sameUnit u s s'

/-- The registers of the unit other than `u` agree. -/
def SameOther (u : PceUnit) (s t : State) : Prop :=
  match u with
  | .p => s.sameR t
  | .r => s.sameP t

/-- `t` and `t'` are what one command of unit `u` may leave of `s` and `s'`: the unit's registers agree, the other unit's
and the events are kept, and both got the same response. -/
structure LocalStep (u : PceUnit) (s s' t t' : State) : Prop where
  own : State.sameUnit u t t'
  other : SameOther u s t
  input : t.input = s.input
  response : ∃ r, t.output = s.output ++ [r] ∧ t'.output = s'.output ++ [r]

variable {u : PceUnit} {s s' : State}

theorem AgreeOn.refl : AgreeOn u s s := by
  cases u with
  | p => exact ⟨rfl, sameP_refl s⟩
  | r => exact ⟨rfl, sameR_refl s⟩

theorem AgreeOn.cfg (h : AgreeOn u s s') : s.cfg = s'.cfg := h.1

theorem AgreeOn.own (h : AgreeOn u s s') : State.sameUnit u s s' := h.2

theorem AgreeOn.sameP (h : AgreeOn .p s s') : s.sameP s' := h.own

theorem AgreeOn.sameR (h : AgreeOn .r s s') : s.sameR s' := h.own

theorem AgreeOn.failFlag (h : AgreeOn u s s') : s.failFlag u = s'.failFlag u := by
  cases u with
  | p =>
    obtain ⟨-, hfail, -⟩ := h.sameP
    exact hfail
  | r =>
    obtain ⟨-, -, -, hfail, -⟩ := h.sameR
    exact hfail

/-! ### The operations -/

theorem LocalStep.respond {c : Cause} {n : BitVec 2} {d : Word30} (h : AgreeOn u s s') :
    LocalStep u s s' (respond c n d s) (respond c n d s') where
  own := h.own
  other := by
    cases u with
    | p => exact sameR_refl s
    | r => exact sameP_refl s
  input := rfl
  response := ⟨_, rfl, rfl⟩

theorem LocalStep.raiseFailure {c : Cause} (h : AgreeOn u s s') :
    LocalStep u s s' (raiseFailure u c s) (raiseFailure u c s') := by
  cases u with
  | p =>
    obtain ⟨hchk, -⟩ := h.sameP
    exact ⟨⟨hchk, rfl, rfl⟩, sameR_refl s, rfl, _, rfl, rfl⟩
  | r =>
    obtain ⟨hacc, hbits, hdir, -⟩ := h.sameR
    exact ⟨⟨hacc, hbits, hdir, rfl, rfl⟩, sameP_refl s, rfl, _, rfl, rfl⟩

theorem LocalStep.ite {c c' : Prop} [Decidable c] [Decidable c'] {t t' v v' : State} (hc : c ↔ c')
    (ht : LocalStep u s s' t t') (hv : LocalStep u s s' v v') :
    LocalStep u s s' (if c then t else v) (if c' then t' else v') := by
  by_cases h : c
  · rwa [if_pos h, if_pos (hc.1 h)]
  · rwa [if_neg h, if_neg (mt hc.2 h)]

theorem LocalStep.unlessFailed {b b' t t' : State} (h : AgreeOn u s s') (hb : LocalStep u s s' b b')
    (ht : unlessFailed u s b = .next t) (ht' : unlessFailed u s' b' = .next t') : LocalStep u s s' t t' := by
  cases hf : s.failFlag u with
  | true =>
    rw [unlessFailed_failed hf] at ht
    rw [unlessFailed_failed (h.failFlag ▸ hf)] at ht'
    cases ht
    cases ht'
    exact .respond h
  | false =>
    rw [unlessFailed_live hf] at ht
    rw [unlessFailed_live (h.failFlag ▸ hf)] at ht'
    cases ht
    cases ht'
    exact hb

/-! ### The P-unit's commands -/

theorem LocalStep.stepChk {v : Sym} (h : AgreeOn .p s s') : LocalStep .p s s' (stepChk v s) (stepChk v s') := by
  obtain ⟨hchk, hfail, hcause⟩ := h.sameP
  exact ⟨⟨by rw [stepChk_chk, stepChk_chk, h.cfg, hchk], hfail, hcause⟩, sameR_refl s, rfl, _, rfl, rfl⟩

theorem LocalStep.finish {k : Variant} (h : AgreeOn .p s s') : LocalStep .p s s' (finish k s) (finish k s') := by
  obtain ⟨hchk, -⟩ := h.sameP
  exact ⟨h.own, sameR_refl s, rfl, _, finish_output s k, by rw [finish_output, h.cfg, hchk]⟩

theorem LocalStep.verify {k : Variant} (h : AgreeOn .p s s') : LocalStep .p s s' (verify k s) (verify k s') := by
  obtain ⟨hchk, -⟩ := h.sameP
  exact .ite (by rw [h.cfg, hchk]) (.respond h) (.raiseFailure h)

/-! ### The R-unit's commands -/

theorem LocalStep.respond_setResidual {c : Cause} {k : BitVec 2} {d : Word30} {t n : Nat} (h : AgreeOn .r s s') :
    LocalStep .r s s' (Machine.respond c k d (setResidual t n s)) (Machine.respond c k d (setResidual t n s')) := by
  obtain ⟨-, -, hrest⟩ := h.sameR
  exact ⟨⟨rfl, rfl, hrest⟩, sameP_refl s, rfl, _, rfl, rfl⟩

theorem LocalStep.respond_clearResidual {c : Cause} {k : BitVec 2} {d : Word30} (h : AgreeOn .r s s') :
    LocalStep .r s s' (Machine.respond c k d (clearResidual s)) (Machine.respond c k d (clearResidual s')) := by
  obtain ⟨-, -, hrest⟩ := h.sameR
  exact ⟨⟨rfl, rfl, hrest⟩, sameP_refl s, rfl, _, rfl, rfl⟩

theorem LocalStep.pushByte {v : Byte} (h : AgreeOn .r s s') : LocalStep .r s s' (pushByte v s) (pushByte v s') := by
  obtain ⟨hacc, hbits, -⟩ := h.sameR
  simp only [Machine.pushByte, ← hacc, ← hbits]
  exact .ite .rfl (.respond_setResidual h) (.respond_setResidual h)

theorem LocalStep.pushSym {v : Sym} (h : AgreeOn .r s s') : LocalStep .r s s' (pushSym v s) (pushSym v s') := by
  obtain ⟨hacc, hbits, -⟩ := h.sameR
  simp only [Machine.pushSym, ← hacc, ← hbits]
  exact .ite .rfl (.respond_setResidual h) (.respond_setResidual h)

theorem LocalStep.flushSyms (h : AgreeOn .r s s') : LocalStep .r s s' (flushSyms s) (flushSyms s') := by
  obtain ⟨hacc, hbits, -⟩ := h.sameR
  simp only [Machine.flushSyms, ← hacc, ← hbits]
  exact .ite .rfl (.respond_clearResidual h) (.respond h)

theorem LocalStep.flushBytes (h : AgreeOn .r s s') : LocalStep .r s s' (flushBytes s) (flushBytes s') := by
  obtain ⟨hacc, hbits, -⟩ := h.sameR
  simp only [Machine.flushBytes, ← h.cfg, ← hacc, ← hbits]
  exact .ite .rfl (.raiseFailure h) (.ite .rfl (.raiseFailure h) (.respond_clearResidual h))

/-! ### Every command of a unit -/

/-- A P-unit command does the same in both states and keeps the R-unit. -/
theorem localStep_exec_p {i : Instr} {t t' : State} (hi : unitOf i = some .p) (h : AgreeOn .p s s')
    (ht : exec i s = .next t) (ht' : exec i s' = .next t') : LocalStep .p s s' t t' := by
  cases i with
  | pinit =>
    cases ht
    cases ht'
    exact ⟨⟨congrArg Config.chkInit h.cfg, rfl, rfl⟩, sameR_refl s, rfl, _, rfl, rfl⟩
  | psym v => exact .unlessFailed h (.ite .rfl (.raiseFailure h) (.stepChk h)) ht ht'
  | phrph c => exact .unlessFailed h (.stepChk h) ht ht'
  | phrpl c => exact .unlessFailed h (.stepChk h) ht ht'
  | pfin k => exact .unlessFailed h (.finish h) ht ht'
  | pvfy k => exact .unlessFailed h (.verify h) ht ht'
  | pfinv ver => exact .unlessFailed h (.ite (by rw [h.cfg]) (.raiseFailure h) (.finish h)) ht ht'
  | pvfyv ver => exact .unlessFailed h (.ite (by rw [h.cfg]) (.raiseFailure h) (.verify h)) ht ht'
  | nop | rinit d | rpush v | rflush | rdreg n => simp [unitOf] at hi

/-- An R-unit command does the same in both states and keeps the P-unit. -/
theorem localStep_exec_r {i : Instr} {t t' : State} (hi : unitOf i = some .r) (h : AgreeOn .r s s')
    (ht : exec i s = .next t) (ht' : exec i s' = .next t') : LocalStep .r s s' t t' := by
  cases i with
  | rinit d =>
    cases ht
    cases ht'
    exact ⟨⟨rfl, rfl, rfl, rfl, rfl⟩, sameP_refl s, rfl, _, rfl, rfl⟩
  | rpush v =>
    refine .unlessFailed h ?_ ht ht'
    obtain ⟨-, -, hdir, -⟩ := h.sameR
    rw [← hdir]
    cases s.rdir with
    | eightToFive => exact .pushByte h
    | fiveToEight => exact .ite .rfl (.raiseFailure h) (.pushSym h)
  | rflush =>
    refine .unlessFailed h ?_ ht ht'
    obtain ⟨-, -, hdir, -⟩ := h.sameR
    rw [← hdir]
    cases s.rdir with
    | eightToFive => exact .flushSyms h
    | fiveToEight => exact .flushBytes h
  | _ => simp [unitOf] at hi

theorem localStep_exec {i : Instr} {t t' : State} (hi : unitOf i = some u) (h : AgreeOn u s s')
    (ht : exec i s = .next t) (ht' : exec i s' = .next t') : LocalStep u s s' t t' := by
  cases u with
  | p => exact localStep_exec_p hi h ht ht'
  | r => exact localStep_exec_r hi h ht ht'

/-- A command of one unit keeps the other unit's registers (R10). -/
theorem sameOther_of_exec {i : Instr} {t : State} (hi : unitOf i = some u) (ht : exec i s = .next t) :
    SameOther u s t :=
  (localStep_exec hi .refl ht ht).other

/-- The constants and the events are kept by every command. -/
theorem exec_keeps_port {i : Instr} {t : State} (ht : exec i s = .next t) : t.cfg = s.cfg ∧ t.input = s.input := by
  obtain ⟨t', r, he, hcfg, hinput, -⟩ := exec_cases i s
  cases he.symm.trans ht
  exact ⟨hcfg, hinput⟩

/-- No step writes a constant (R21). -/
theorem step_cfg {t : State} (h : step s = .next t) : t.cfg = s.cfg := by
  rcases step_cases h with ⟨-, rfl⟩ | ⟨rest, -, rfl⟩ | ⟨w, rest, e, -, -, rfl⟩ | ⟨w, rest, i, -, -, hexec⟩
  · rfl
  · rfl
  · rfl
  · exact (exec_keeps_port hexec).1

theorem run_cfg {k : Nat} {t : State} (h : run k s = .next t) : t.cfg = s.cfg :=
  run_keeps (P := fun t => t.cfg = s.cfg) (fun _ _ hs hstep => (step_cfg hstep).trans hs) rfl h

end Sys2Proof.Machine
end

section
/-! PROOFS. The obligations on the units, the constants and the status views. -/

namespace Sys2Proof.Machine

/-- Settles O37: the two-run rule of every command, read field by field. -/
theorem unitsShareNothing : Obligations.UnitsShareNothing := by
  intro i u s s' t t' hi hcfg hsame ht ht'
  obtain ⟨hown, hother, hinput, hresponse⟩ := localStep_exec hi ⟨hcfg, hsame⟩ ht ht'
  cases u <;> exact ⟨hown, hother, hinput, hresponse⟩

/-- Settles O38: each command finds its own unit the same in both orders, since the other command keeps it. -/
theorem neighboursSwap : Obligations.NeighboursSwap := by
  intro i j s a b a' b' hi hj hia hjb hja hib
  have haP : s.sameP a' := sameOther_of_exec hj hja
  have haR : s.sameR a := sameOther_of_exec hi hia
  have hbP : a.sameP b := sameOther_of_exec hj hjb
  have hbR : a'.sameR b' := sameOther_of_exec hi hib
  obtain ⟨hcfg_a, hin_a⟩ := exec_keeps_port hia
  obtain ⟨hcfg_b, hin_b⟩ := exec_keeps_port hjb
  obtain ⟨hcfg_a', hin_a'⟩ := exec_keeps_port hja
  obtain ⟨hcfg_b', hin_b'⟩ := exec_keeps_port hib
  obtain ⟨hP, -, -, p, hp, hp'⟩ := localStep_exec hi ⟨hcfg_a'.symm, haP⟩ hia hib
  obtain ⟨hR, -, -, r, hr, hr'⟩ := localStep_exec hj ⟨hcfg_a.symm, haR⟩ hja hjb
  refine ⟨sameP_trans (sameP_symm hbP) hP, sameR_trans (sameR_symm hR) hbR, ?_, ?_, p, r, ?_, ?_⟩
  · rw [hcfg_b, hcfg_a, hcfg_b', hcfg_a']
  · rw [hin_b, hin_a, hin_b', hin_a']
  · simp [hr', hp]
  · simp [hp', hr]

/-- Settles O39: the constants by what a step can do, the registers because `NOP` and `RDREG` only answer. -/
theorem constantsFixed : Obligations.ConstantsFixed := by
  refine ⟨fun _ _ h => step_cfg h, fun _ _ _ h => run_cfg h, fun i s t hi ht => ?_⟩
  obtain ⟨c, d, he⟩ := exec_of_unitOf_none hi s
  cases he.symm.trans ht
  exact ⟨sameP_refl s, sameR_refl s⟩

theorem dirBit_toNat (d : Dir) : (dirBit d).toNat = if d = .fiveToEight then 1 else 0 := by cases d <;> rfl

/-- Settles O17: the fields of a status view stand side by side, so the view is the sum of the shifted fields. -/
theorem statusViews : Obligations.StatusViews := by
  intro s
  have hpcause := s.pcause.isLt
  have hrcause := s.rcause.isLt
  have hbits := s.bits.isLt
  constructor
  · rw [State.pstat, BitVec.toNat_setWidth, toNat_append_eq, toNat_append_eq, BitVec.toNat_ofBool]
    have := s.pfail.toNat_le
    simp
    omega
  · rw [State.rstat, BitVec.toNat_setWidth]
    simp only [toNat_append_eq, BitVec.toNat_ofBool, dirBit_toNat]
    have := s.rfail.toNat_le
    split <;> simp <;> omega

end Sys2Proof.Machine
end

section
/-! PROOFS. The R-unit's registers follow the loops of R85 and R86: while a conversion is under way, `ACC` and `BITS` are
the loop's accumulator, and every response carries the units the loop gives out. -/

namespace Sys2Proof.Machine

/-! ### The loops, one round each -/

theorem joinBits_lt {acc n w v : Nat} (ha : acc < 2 ^ n) (hv : v < 2 ^ w) : joinBits acc w v < 2 ^ (n + w) := by
  rw [joinBits, shiftLeft_or_eq _ _ _ hv, pow_add]
  calc acc * 2 ^ w + v < (acc + 1) * 2 ^ w := by rw [Nat.succ_mul]; omega
    _ ≤ 2 ^ n * 2 ^ w := Nat.mul_le_mul_right _ ha

theorem emitSyms_of_lt {n : Nat} {g : Regroup Sym} (h : g.bits < 5) : emitSyms n g = g := by
  cases n with
  | zero => rfl
  | succ n => rw [emitSyms, if_neg (by omega)]

theorem emitSyms_of_le {n : Nat} {g : Regroup Sym} (h : 5 ≤ g.bits) :
    emitSyms (n + 1) g =
      emitSyms n
        { acc := g.acc &&& (2 ^ (g.bits - 5) - 1), bits := g.bits - 5,
          out := g.out ++ [BitVec.ofNat 5 (g.acc >>> (g.bits - 5))] } := by
  rw [emitSyms, if_pos h]

theorem takeByte_of_lt_two {g : Regroup Sym} {b : Byte} (h : g.bits < 2) :
    takeByte g b =
      { acc := joinBits g.acc 8 b.toNat &&& (2 ^ (g.bits + 3) - 1), bits := g.bits + 3,
        out := g.out ++ [BitVec.ofNat 5 (joinBits g.acc 8 b.toNat >>> (g.bits + 3))] } := by
  rw [takeByte, emitSyms_of_le (by simp), emitSyms_of_lt (by simp; omega)]
  rfl

/-- The second symbol and the rest of a word do not depend on the bits the first symbol took away. -/
theorem ofNat_mask_shiftRight (t n : Nat) :
    BitVec.ofNat 5 ((t &&& (2 ^ (n + 5) - 1)) >>> n) = BitVec.ofNat 5 (t >>> n) := by
  apply BitVec.eq_of_toNat_eq
  rw [BitVec.toNat_ofNat, BitVec.toNat_ofNat, Nat.and_two_pow_sub_one_eq_mod, Nat.shiftRight_eq_div_pow,
    Nat.shiftRight_eq_div_pow, pow_add, Nat.mod_mul_right_div_self, Nat.mod_mod]

theorem mask_mask (t : Nat) {n m : Nat} (h : n ≤ m) : t &&& (2 ^ m - 1) &&& (2 ^ n - 1) = t &&& (2 ^ n - 1) := by
  simp only [Nat.and_two_pow_sub_one_eq_mod]
  exact Nat.mod_mod_of_dvd _ (Nat.pow_dvd_pow 2 h)

theorem takeByte_of_two_le {g : Regroup Sym} {b : Byte} (h : 2 ≤ g.bits) (h4 : g.bits ≤ 4) :
    takeByte g b =
      { acc := joinBits g.acc 8 b.toNat &&& (2 ^ (g.bits - 2) - 1), bits := g.bits - 2,
        out := g.out ++ [BitVec.ofNat 5 (joinBits g.acc 8 b.toNat >>> (g.bits + 3)),
          BitVec.ofNat 5 (joinBits g.acc 8 b.toNat >>> (g.bits - 2))] } := by
  obtain ⟨n, hn⟩ : ∃ n, g.bits = n + 2 := ⟨g.bits - 2, by omega⟩
  rw [takeByte, emitSyms_of_le (by simp), emitSyms_of_le (by simp; omega), emitSyms_of_lt (by simp; omega)]
  simp only [hn, Nat.add_sub_cancel, Nat.reduceSubDiff, List.append_assoc, List.cons_append, List.nil_append]
  rw [mask_mask _ (by omega), ofNat_mask_shiftRight]
  rfl

theorem takeSym_of_three_le {g : Regroup Byte} {v : Nat} (h : 3 ≤ g.bits) :
    takeSym g v =
      { acc := joinBits g.acc 5 v &&& (2 ^ (g.bits - 3) - 1), bits := g.bits - 3,
        out := g.out ++ [BitVec.ofNat 8 (joinBits g.acc 5 v >>> (g.bits - 3))] } := by
  simp only [takeSym]
  rw [if_pos (by omega)]
  rfl

theorem takeSym_of_lt_three {g : Regroup Byte} {v : Nat} (h : g.bits < 3) :
    takeSym g v = { acc := joinBits g.acc 5 v, bits := g.bits + 5, out := g.out } := by
  simp only [takeSym]
  rw [if_neg (by omega)]
  rfl

/-- R86 in one expression: the loop, then the checks. -/
theorem regroup5to8_eq_bind (strictPad : Bool) (x : List Byte) :
    regroup5to8 strictPad x = (takeSyms { acc := 0, bits := 0, out := [] } x).bind (closeBytes strictPad) := by
  unfold regroup5to8
  cases takeSyms { acc := 0, bits := 0, out := [] } x <;> rfl

/-! ### Output units -/

theorem units_none (c : Cause) (d : Word30) : (Response.mk c 0#2 d).units = [] := rfl

theorem units_packOne (c : Cause) (x : Byte) : (Response.mk c 1#2 (packOne x)).units = [x] := by
  have hx := x.isLt
  have hunit : (packOne x).extractLsb' 0 8 = x := by
    apply BitVec.eq_of_toNat_eq
    simp [packOne]
    omega
  simp [Response.units, hunit]

theorem units_packTwo (c : Cause) (x y : Byte) : (Response.mk c 2#2 (packTwo x y)).units = [x, y] := by
  have hx := x.isLt
  have hy := y.isLt
  have hdata : (packTwo x y).toNat = y.toNat * 256 + x.toNat := by
    rw [packTwo, BitVec.toNat_setWidth, toNat_append_eq]
    omega
  have hfirst : (packTwo x y).extractLsb' 0 8 = x := by
    apply BitVec.eq_of_toNat_eq
    rw [BitVec.extractLsb'_toNat, Nat.shiftRight_zero, hdata]
    omega
  have hsecond : (packTwo x y).extractLsb' 8 8 = y := by
    apply BitVec.eq_of_toNat_eq
    rw [BitVec.extractLsb'_toNat, Nat.shiftRight_eq_div_pow, hdata]
    omega
  simp [Response.units, hfirst, hsecond]

theorem outUnit_sliceNat_eq_symByte (t lo : Nat) :
    outUnit (sliceNat t (lo + 4) lo) = symByte (BitVec.ofNat 5 (t >>> lo)) := by
  have hwidth : lo + 4 + 1 - lo = 5 := by omega
  apply BitVec.eq_of_toNat_eq
  rw [sliceNat, hwidth, outUnit, symByte_toNat, BitVec.toNat_ofNat, BitVec.toNat_ofNat]
  omega

theorem outUnit_sliceNat_eq_ofNat (t lo : Nat) : outUnit (sliceNat t (lo + 7) lo) = BitVec.ofNat 8 (t >>> lo) := by
  have hwidth : lo + 7 + 1 - lo = 8 := by omega
  apply BitVec.eq_of_toNat_eq
  rw [sliceNat, hwidth, outUnit, BitVec.toNat_ofNat, BitVec.toNat_ofNat]
  omega

/-! ### The registers and the accumulator -/

/-- The R-unit is converting in direction `d` and its residual bits are those of the accumulator `g`. -/
structure Tracks {α : Type} (d : Dir) (s : State) (g : Regroup α) : Prop where
  live : s.rfail = false
  cause : s.rcause = 0#4
  dir : s.rdir = d
  acc : s.acc.toNat = g.acc
  bits : s.bits.toNat = g.bits
  small : g.acc < 2 ^ g.bits
  few : d = .eightToFive → g.bits ≤ 4

/-- `t` is `s` after one more response, an `OK` one with these output units. -/
def AnswersOk (s t : State) (units : List Byte) : Prop :=
  ∃ r, t.output = s.output ++ [r] ∧ r.cause = .ok ∧ r.units = units

section
variable {α : Type} {d : Dir} {s : State} {g : Regroup α}

theorem Tracks.bits_le (h : Tracks d s g) : g.bits ≤ 7 := by
  have := s.bits.isLt
  rw [← h.bits]
  omega

theorem Tracks.input (h : Tracks d s g) (l : List HostEvent) : Tracks d { s with input := l } g :=
  ⟨h.live, h.cause, h.dir, h.acc, h.bits, h.small, h.few⟩

/-- Residual bits that are masked and in a number the direction allows are the accumulator of a loop. -/
theorem Tracks.respond_setResidual (h : Tracks d s g) {c : Cause} {k : BitVec 2} {v : Word30} {t n : Nat} {out : List α}
    (hn : n ≤ 7) (hd : d = .eightToFive → n ≤ 4) :
    Tracks d (respond c k v (setResidual t n s)) { acc := t &&& (2 ^ n - 1), bits := n, out := out } := by
  have hlt : t &&& (2 ^ n - 1) < 2 ^ n := by
    rw [Nat.and_two_pow_sub_one_eq_mod]
    exact Nat.mod_lt _ (Nat.two_pow_pos n)
  refine ⟨h.live, h.cause, h.dir, ?_, ?_, hlt, hd⟩
  · rw [respond_acc, setResidual_acc, BitVec.toNat_ofNat]
    exact Nat.mod_eq_of_lt (hlt.trans_le (Nat.pow_le_pow_right (by decide) hn))
  · rw [respond_bits, setResidual_bits, BitVec.toNat_ofNat]
    exact Nat.mod_eq_of_lt (Nat.lt_succ_of_le hn)

end

/-! ### The R-unit's commands follow the loops -/

theorem Tracks.pushByte {s : State} {g : Regroup Sym} (h : Tracks .eightToFive s g) (v : Byte) :
    Tracks .eightToFive (pushByte v s) (takeByte g v) ∧
      ∃ y, AnswersOk s (pushByte v s) y ∧ g.out.map symByte ++ y = (takeByte g v).out.map symByte := by
  have h4 := h.few rfl
  rcases Nat.lt_or_ge g.bits 2 with hn | hn
  · rw [pushByte_of_lt_two (h.bits ▸ hn), takeByte_of_lt_two hn, h.acc, h.bits]
    refine ⟨h.respond_setResidual (by omega) (by omega), _, ⟨_, rfl, rfl, units_packOne _ _⟩, ?_⟩
    rw [outUnit_sliceNat_eq_symByte _ (g.bits + 3)]
    simp
  · rw [pushByte_of_two_le (h.bits ▸ hn), takeByte_of_two_le hn h4, h.acc, h.bits]
    refine ⟨h.respond_setResidual (by omega) (by omega), _, ⟨_, rfl, rfl, units_packTwo _ _ _⟩, ?_⟩
    have hhi : g.bits + 2 = g.bits - 2 + 4 := by omega
    rw [outUnit_sliceNat_eq_symByte _ (g.bits + 3), hhi, outUnit_sliceNat_eq_symByte]
    simp

theorem Tracks.pushSym {s : State} {g : Regroup Byte} (h : Tracks .fiveToEight s g) (v : Sym) :
    Tracks .fiveToEight (pushSym v s) (takeSym g v.toNat) ∧
      ∃ y, AnswersOk s (pushSym v s) y ∧ g.out ++ y = (takeSym g v.toNat).out := by
  have h7 := h.bits_le
  rcases Nat.lt_or_ge g.bits 3 with hn | hn
  · have hmask : joinBits g.acc 5 v.toNat &&& (2 ^ (g.bits + 5) - 1) = joinBits g.acc 5 v.toNat := by
      rw [Nat.and_two_pow_sub_one_eq_mod, Nat.mod_eq_of_lt (joinBits_lt h.small v.isLt)]
    rw [pushSym_of_lt_three (h.bits ▸ hn), takeSym_of_lt_three hn, h.acc, h.bits]
    refine ⟨?_, [], ⟨_, rfl, rfl, units_none _ _⟩, by simp⟩
    conv => rhs; rw [← hmask]
    exact h.respond_setResidual (by omega) (by simp)
  · rw [pushSym_of_three_le (h.bits ▸ hn), takeSym_of_three_le hn, h.acc, h.bits]
    refine ⟨h.respond_setResidual (by omega) (by simp), _, ⟨_, rfl, rfl, units_packOne _ _⟩, ?_⟩
    have hhi : g.bits + 4 = g.bits - 3 + 7 := by omega
    rw [hhi, outUnit_sliceNat_eq_ofNat]

end Sys2Proof.Machine
end

section
/-! PROOFS. Runs of R-unit commands, and RSEQ on its own (R117): the run follows the loop of R85 or R86 and its end. -/

namespace Sys2Proof.Machine

/-! ### Runs -/

/-- A run of a list of commands is its first command, then a run of the rest. -/
theorem runAll_command {i : Instr} {is : List Instr} {s u : State} (hin : s.input = eventsOf (i :: is))
    (hwf : i.wf = true) (hu : exec i { s with input := eventsOf is } = .next u) : runAll s = runAll u := by
  have hstep : step s = .next u := (step_legal hin (decode_encode_of_wf hwf)).trans hu
  have hlength : s.input.length = u.input.length + 1 := by
    rw [hin, (exec_keeps_port hu).2]
    rfl
  rw [runAll, runAll, hlength, run_succ hstep]

theorem wf_of_unitOf_r {i : Instr} (h : unitOf i = some .r) : i.wf = true := by
  cases i with
  | rdreg n => simp [unitOf] at h
  | _ => rfl

/-- The run of what is presented to `s` ends in `t` with the responses `rs`, and the P-unit is kept: a run of R-unit
commands. -/
structure RegroupRun (s t : State) (rs : List Response) : Prop where
  run : runAll s = .next t
  output : t.output = s.output ++ rs
  length : rs.length = s.input.length
  keepsP : s.sameP t

theorem RegroupRun.nil {s : State} (hin : s.input = []) : RegroupRun s s [] where
  run := by rw [runAll, hin]; rfl
  output := by simp
  length := by simp [hin]
  keepsP := sameP_refl s

theorem RegroupRun.cons {i : Instr} {is : List Instr} {s u t : State} {r : Response} {rs : List Response}
    (hin : s.input = eventsOf (i :: is)) (hi : unitOf i = some .r)
    (hu : exec i { s with input := eventsOf is } = .next u) (hr : u.output = s.output ++ [r]) (h : RegroupRun u t rs) : RegroupRun s t (r :: rs) where
  run := (runAll_command hin (wf_of_unitOf_r hi) hu).trans h.run
  output := by simp [h.output, hr]
  length := by
    rw [List.length_cons, h.length, (exec_keeps_port hu).2, hin]
    rfl
  keepsP :=
    have hfirst : State.sameP { s with input := eventsOf is } u := sameOther_of_exec hi hu
    sameP_trans hfirst h.keepsP

/-! ### How a conversion ends -/

/-- The R-unit has no residual bits and no failure, in direction `d`. -/
def Ready (d : Dir) (t : State) : Prop := t.acc = 0#7 ∧ t.bits = 0#3 ∧ t.rfail = false ∧ t.rcause = 0#4 ∧ t.rdir = d

theorem Ready.sameR {d : Dir} {s t : State} : Ready d s → Ready d t → s.sameR t
  | ⟨hacc, hbits, hfail, hcause, hdir⟩, ⟨hacc', hbits', hfail', hcause', hdir'⟩ =>
    ⟨hacc.trans hacc'.symm, hbits.trans hbits'.symm, hdir.trans hdir'.symm, hfail.trans hfail'.symm,
      hcause.trans hcause'.symm⟩

/-- A ready unit stands at the start of the loop. -/
theorem Ready.tracks {d : Dir} {s : State} {α : Type} :
    Ready d s → Tracks d s { acc := 0, bits := 0, out := ([] : List α) }
  | ⟨hacc, hbits, hfail, hcause, hdir⟩ => ⟨hfail, hcause, hdir, by simp [hacc], by simp [hbits], by simp, by simp⟩

/-- The end of a conversion in direction `d` with result `res`, when the units `given` were given out before: with
success, all responses are `OK`, the units make up the result, and the unit is ready; with a failure, the responses are
`OK` up to the cause and `FAILED` after it, and the cause is recorded (R98). -/
def ConversionEnds (d : Dir) (given : List Byte) (rs : List Response) (t : State) : Except Cause (List Byte) → Prop
  | .ok y => (∀ r ∈ rs, r.cause = .ok) ∧ given ++ unitsOf rs = y ∧ Ready d t
  | .error e =>
    (∃ n m : Nat, rs.map Response.cause = List.replicate n .ok ++ [e] ++ List.replicate m .failed) ∧
      t.rfail = true ∧ t.rcause = e.code ∧ t.rdir = d

/-- The run of what is presented to `s` ends a conversion with result `res`. -/
def Converts (d : Dir) (given : List Byte) (s : State) (res : Except Cause (List Byte)) : Prop :=
  ∃ t rs, RegroupRun s t rs ∧ ConversionEnds d given rs t res

/-- One more `OK` response in front, with its units. -/
theorem ConversionEnds.cons {d : Dir} {given : List Byte} {r : Response} {rs : List Response} {t : State}
    {res : Except Cause (List Byte)} (hr : r.cause = .ok) (h : ConversionEnds d (given ++ r.units) rs t res) :
    ConversionEnds d given (r :: rs) t res := by
  cases res with
  | ok y =>
    obtain ⟨hok, hunits, hready⟩ := h
    exact ⟨List.forall_mem_cons.2 ⟨hr, hok⟩, by rw [← hunits]; simp [unitsOf], hready⟩
  | error e =>
    obtain ⟨⟨n, m, hcauses⟩, hend⟩ := h
    exact ⟨⟨n + 1, m, by simp [hcauses, hr, List.replicate_succ]⟩, hend⟩

section
variable {d : Dir} {given : List Byte} {i : Instr} {is : List Instr} {s u : State}

theorem Converts.nil (hin : s.input = []) (h : Ready d s) : Converts d given s (.ok given) :=
  ⟨s, [], .nil hin, by simp, by simp [unitsOf], h⟩

/-- A conversion goes on after a command that answers `OK`. -/
theorem Converts.cons {y : List Byte} {res : Except Cause (List Byte)} (hin : s.input = eventsOf (i :: is))
    (hi : unitOf i = some .r) (hu : exec i { s with input := eventsOf is } = .next u)
    (hy : AnswersOk { s with input := eventsOf is } u y) (h : Converts d (given ++ y) u res) :
    Converts d given s res := by
  obtain ⟨r, hout, hcause, rfl⟩ := hy
  obtain ⟨t, rs, hrun, hends⟩ := h
  exact ⟨t, r :: rs, hrun.cons hin hi hu hout, hends.cons hcause⟩

/-- In the failed state an R-unit data command answers `FAILED` and does nothing else (R158). -/
theorem exec_failed_r (hi : unitOf i = some .r) (hskip : skipsFailedTest i = false) (hfail : s.rfail = true) :
    exec i s = .next (respond .failed 0#2 0#30 s) := by
  cases i with
  | rpush v => exact unlessFailed_failed hfail
  | rflush => exact unlessFailed_failed hfail
  | rinit d => simp [skipsFailedTest] at hskip
  | _ => simp [unitOf] at hi

/-- After a failure every R-unit data command answers `FAILED` and the failure stays recorded. -/
theorem regroupRun_failed (his : ∀ i ∈ is, unitOf i = some .r ∧ skipsFailedTest i = false) (hin : s.input = eventsOf is)
    (hfail : s.rfail = true) :
    ∃ t rs, RegroupRun s t rs ∧ rs.map Response.cause = List.replicate is.length .failed ∧ s.sameR t := by
  induction is generalizing s with
  | nil => exact ⟨s, [], .nil hin, rfl, sameR_refl s⟩
  | cons i is ih =>
    obtain ⟨⟨hi, hskip⟩, his⟩ := List.forall_mem_cons.1 his
    obtain ⟨t, rs, hrun, hcauses, hsame⟩ :=
      ih (s := respond .failed 0#2 0#30 { s with input := eventsOf is }) his rfl hfail
    exact ⟨t, _, hrun.cons hin hi (exec_failed_r hi hskip hfail) rfl, by simp [hcauses, List.replicate_succ], hsame⟩

/-- A conversion fails with the cause a command raises, whatever data commands come after it. -/
theorem Converts.error {e : Cause} (hin : s.input = eventsOf (i :: is)) (hi : unitOf i = some .r)
    (his : ∀ j ∈ is, unitOf j = some .r ∧ skipsFailedTest j = false) (hd : s.rdir = d)
    (hu : exec i { s with input := eventsOf is } = .next (raiseFailure .r e { s with input := eventsOf is })) :
    Converts d given s (.error e) := by
  obtain ⟨t, rs, hrun, hcauses, -, -, hdir, hfail, hcause⟩ :=
    regroupRun_failed (s := raiseFailure .r e { s with input := eventsOf is }) his rfl rfl
  exact ⟨t, _, hrun.cons hin hi hu rfl, ⟨0, is.length, by simp [hcauses]⟩, hfail.symm, hcause.symm, hdir.symm.trans hd⟩

end

/-! ### RSEQ follows the loops -/

theorem rSeq_cons (v : Byte) (x : List Byte) : rSeq (v :: x) = .rpush v :: rSeq x := rfl

theorem rSeq_data (x : List Byte) : ∀ i ∈ rSeq x, unitOf i = some .r ∧ skipsFailedTest i = false := by
  simp only [rSeq, List.mem_append, List.mem_map, List.mem_singleton]
  rintro i (⟨v, -, rfl⟩ | rfl) <;> exact ⟨rfl, rfl⟩

section
variable {s : State}

theorem exec_rpush_byte (hlive : s.rfail = false) (hd : s.rdir = .eightToFive) (v : Byte) :
    exec (.rpush v) s = .next (pushByte v s) := by
  simp [exec, execRpush, unlessFailed, hlive, hd]

theorem exec_rpush_sym (hlive : s.rfail = false) (hd : s.rdir = .fiveToEight) {v : Byte} (hv : aboveSym v = false) :
    exec (.rpush v) s = .next (pushSym (lowSym v) s) := by
  simp [exec, execRpush, unlessFailed, hlive, hd, hv]

theorem exec_rpush_above (hlive : s.rfail = false) (hd : s.rdir = .fiveToEight) {v : Byte} (hv : aboveSym v = true) :
    exec (.rpush v) s = .next (raiseFailure .r .symRange s) := by
  simp [exec, execRpush, unlessFailed, hlive, hd, hv]

theorem exec_rflush_syms (hlive : s.rfail = false) (hd : s.rdir = .eightToFive) :
    exec .rflush s = .next (flushSyms s) := by
  simp [exec, execRflush, unlessFailed, hlive, hd]

theorem exec_rflush_bytes (hlive : s.rfail = false) (hd : s.rdir = .fiveToEight) :
    exec .rflush s = .next (flushBytes s) := by
  simp [exec, execRflush, unlessFailed, hlive, hd]

/-- `RFLUSH` of symbols gives the last, short group and leaves the unit ready (R91, R93). -/
theorem Tracks.flushSyms {g : Regroup Sym} (h : Tracks .eightToFive s g) :
    Ready .eightToFive (flushSyms s) ∧ AnswersOk s (flushSyms s) ((lastSym g).map symByte) := by
  unfold Machine.flushSyms lastSym
  rw [h.bits, h.acc]
  split
  case isTrue hpos =>
    have hunit (n : Nat) : outUnit (n &&& 31) = symByte (BitVec.ofNat 5 n) := by
      apply BitVec.eq_of_toNat_eq
      rw [outUnit, symByte_toNat, BitVec.toNat_ofNat, BitVec.toNat_ofNat, Nat.and_two_pow_sub_one_eq_mod _ 5]
      omega
    refine ⟨⟨rfl, rfl, h.live, h.cause, h.dir⟩, _, rfl, rfl, ?_⟩
    rw [units_packOne, hunit]
    rfl
  case isFalse hzero =>
    have hbits : g.bits = 0 := by omega
    have hacc : g.acc = 0 := by simpa [hbits] using h.small
    refine ⟨⟨?_, ?_, h.live, h.cause, h.dir⟩, _, rfl, rfl, units_none _ _⟩
    · exact BitVec.eq_of_toNat_eq (h.acc.trans hacc)
    · exact BitVec.eq_of_toNat_eq (h.bits.trans hbits)

/-- `RFLUSH` of bytes raises the cause of R86's checks, or has none to raise. -/
theorem Tracks.flushBytes {g : Regroup Byte} (h : Tracks .fiveToEight s g) :
    (∃ e, closeBytes s.cfg.strictPad g = .error e ∧ flushBytes s = raiseFailure .r e s) ∨
      (closeBytes s.cfg.strictPad g = .ok g.out ∧ flushBytes s = respondOk (clearResidual s)) := by
  have hacc : s.acc ≠ 0#7 ↔ g.acc ≠ 0 := by rw [← h.acc, ← BitVec.toNat_inj.ne]; rfl
  simp only [Machine.flushBytes, closeBytes, h.bits, hacc]
  split_ifs
  · exact .inl ⟨_, rfl, rfl⟩
  · exact .inl ⟨_, rfl, rfl⟩
  · exact .inr ⟨rfl, rfl⟩

/-- In direction 8→5, `RSEQ` gives what the loop of R85 and its last group still have to give. -/
theorem Tracks.converts_to_symbols {g : Regroup Sym} (h : Tracks .eightToFive s g) {x : List Byte}
    (hin : s.input = eventsOf (rSeq x)) :
    Converts .eightToFive (g.out.map symByte) s
      (.ok (((x.foldl takeByte g).out ++ lastSym (x.foldl takeByte g)).map symByte)) := by
  induction x generalizing s g with
  | nil =>
    have h' := h.input (eventsOf [])
    obtain ⟨hready, hanswer⟩ := h'.flushSyms
    have hu := exec_rflush_syms h'.live h'.dir
    refine .cons hin rfl hu hanswer ?_
    rw [List.map_append]
    exact .nil (exec_keeps_port hu).2 hready
  | cons v x ih =>
    have h' := h.input (eventsOf (rSeq x))
    obtain ⟨hnext, y, hanswer, hout⟩ := h'.pushByte v
    have hu := exec_rpush_byte h'.live h'.dir v
    refine .cons hin rfl hu hanswer ?_
    rw [hout]
    exact ih hnext (exec_keeps_port hu).2

/-- In direction 5→8, `RSEQ` ends as the loop of R86 and its checks do. -/
theorem Tracks.converts_to_bytes {g : Regroup Byte} (h : Tracks .fiveToEight s g) {x : List Byte}
    (hin : s.input = eventsOf (rSeq x)) :
    Converts .fiveToEight g.out s ((takeSyms g x).bind (closeBytes s.cfg.strictPad)) := by
  induction x generalizing s g with
  | nil =>
    have h' := h.input (eventsOf [])
    have hu := exec_rflush_bytes h'.live h'.dir
    rcases h'.flushBytes with ⟨e, hclose, hflush⟩ | ⟨hclose, hflush⟩
    · rw [hflush] at hu
      rw [takeSyms, Except.bind, hclose]
      exact .error hin rfl (by simp) h.dir hu
    · rw [hflush] at hu
      rw [takeSyms, Except.bind, hclose]
      refine .cons hin rfl hu ⟨_, rfl, rfl, units_none _ _⟩ ?_
      rw [List.append_nil]
      exact .nil rfl ⟨rfl, rfl, h.live, h.cause, h.dir⟩
  | cons v x ih =>
    have h' := h.input (eventsOf (rSeq x))
    cases hv : aboveSym v with
    | true =>
      have hloop : takeSyms g (v :: x) = .error .symRange := by simp [takeSyms, hv]
      rw [hloop]
      exact .error hin rfl (rSeq_data x) h.dir (exec_rpush_above h'.live h'.dir hv)
    | false =>
      have hsym : (lowSym v).toNat = v.toNat := by
        simp only [aboveSym, decide_eq_false_iff_not] at hv
        rw [lowSym_toNat]
        omega
      have hloop : takeSyms g (v :: x) = takeSyms (takeSym g (lowSym v).toNat) x := by simp [takeSyms, hv, hsym]
      obtain ⟨hnext, y, hanswer, hout⟩ := h'.pushSym (lowSym v)
      have hu := exec_rpush_sym h'.live h'.dir hv
      obtain ⟨hcfg, hinput⟩ := exec_keeps_port hu
      rw [hloop]
      refine .cons hin rfl hu hanswer ?_
      rw [hout]
      have := ih hnext hinput
      rwa [hcfg] at this

end

/-! ### The obligation -/

/-- Settles O56: an idle unit follows the loops from their start. -/
theorem rseqAlone : Obligations.RseqAlone := by
  intro x s hacc hbits hfail hcause hin
  have hlength : s.input.length = x.length + 1 := by simp [hin, eventsOf, rSeq]
  have hstart : Ready s.rdir s := ⟨hacc, hbits, hfail, hcause, rfl⟩
  cases hd : s.rdir with
  | eightToFive =>
    rw [hd] at hstart
    obtain ⟨t, rs, hrun, hok, hunits, hready⟩ := hstart.tracks.converts_to_symbols hin
    exact ⟨t, rs, hrun.run, hrun.output, hrun.length.trans hlength, hrun.keepsP,
      fun _ => ⟨hok, hunits, hstart.sameR hready⟩, by simp, by simp⟩
  | fiveToEight =>
    rw [hd] at hstart
    obtain ⟨t, rs, hrun, hends⟩ := hstart.tracks.converts_to_bytes hin
    rw [← regroup5to8_eq_bind] at hends
    refine ⟨t, rs, hrun.run, hrun.output, hrun.length.trans hlength, hrun.keepsP, by simp, fun _ y hy => ?_,
      fun _ e he => ?_⟩
    · rw [hy] at hends
      obtain ⟨hok, hunits, hready⟩ := hends
      exact ⟨hok, hunits, hstart.sameR hready⟩
    · rw [he] at hends
      exact hends

end Sys2Proof.Machine
end

section
/-! PROOFS. The step as a total function: it runs the decoded command, always has a next state, takes one event, and so
a run of `k` steps takes `k` events. -/

namespace Sys2Proof.Machine

/-- A step always gives a next state, and takes the next event if there is one. -/
theorem step_completes (s : State) : ∃ t, step s = .next t ∧ t.input = s.input.tail := by
  rcases hin : s.input with _ | ⟨e, rest⟩
  · exact ⟨s, step_idle hin, hin⟩
  · cases e with
    | reset => exact ⟨_, step_reset hin, rfl⟩
    | command w =>
      rcases hd : decode w with e | i
      · exact ⟨_, step_illegal hin hd, rfl⟩
      · obtain ⟨t, _, ht, -, hinput, -⟩ := exec_cases i { s with input := rest }
        exact ⟨t, (step_legal hin hd).trans ht, hinput⟩

/-- A run of any length completes, and takes one event a step as long as there are events. -/
theorem run_completes (k : Nat) (s : State) : ∃ t, run k s = .next t ∧ t.input = s.input.drop k := by
  induction k generalizing s with
  | zero => exact ⟨s, rfl, rfl⟩
  | succ k ih =>
    obtain ⟨u, hu, huin⟩ := step_completes s
    obtain ⟨t, ht, htin⟩ := ih u
    exact ⟨t, (run_succ hu).trans ht, by rw [htin, huin, List.drop_tail]⟩

/-! ### The obligations -/

/-- Settles O8: a step takes one event, so a run of as many steps as there are events leaves none. -/
theorem everyStepCompletes : Obligations.EveryStepCompletes := by
  refine ⟨step_completes, fun s => ?_, fun i s => ?_⟩
  · obtain ⟨t, ht, hinput⟩ := run_completes s.input.length s
    exact ⟨t, ht, hinput.trans List.drop_length⟩
  · obtain ⟨t, _, ht, -⟩ := exec_cases i s
    exact ⟨t, ht⟩

/-- Settles O6: the answer to an illegal word is the one response `ILLEGAL`. -/
theorem stepRunsDecoded : Obligations.StepRunsDecoded :=
  fun _ _ _ hin => ⟨fun _ hd => step_legal hin hd, fun _ hd => step_illegal hin hd⟩

end Sys2Proof.Machine
end

section
/-! PROOFS. The opcode map both ways (R45 to R50): the legal words are exactly the words of the well-formed commands,
row by row, and the illegal words are those of R49's clauses. -/

namespace Sys2Proof.Machine

/-! ### From a word to its command and back -/

/-- `w` is the word of the command `i`. -/
abbrev IsWordOf (w : Word16) (i : Instr) : Prop := i.wf = true ∧ encode i = w

section
variable {o : BitVec 4} {v : Byte} {i : Instr}

theorem isWordOf_of_noOperand {j : Instr} (h : noOperand v j = .ok i) (hj : IsWordOf (assembleWord o 0#8) j) :
    IsWordOf (assembleWord o v) i := by
  obtain ⟨rfl, rfl⟩ := noOperand_ok.1 h
  exact hj

/-- An operand of at most 1 is the byte of the bit it is read as. -/
theorem isWordOf_of_bitOperand (f : Bool → Instr) (h : bitOperand v f = .ok i)
    (hf : ∀ b : Bool, IsWordOf (assembleWord o ((BitVec.ofBool b).setWidth 8)) (f b)) :
    IsWordOf (assembleWord o v) i := by
  obtain ⟨hv, rfl⟩ := bitOperand_ok.1 h
  rcases Nat.le_one_iff_eq_zero_or_eq_one.1 hv with hv | hv
  · obtain rfl : v = 0#8 := BitVec.eq_of_toNat_eq hv
    exact hf false
  · obtain rfl : v = 1#8 := BitVec.eq_of_toNat_eq hv
    exact hf true

/-- A number of at most 12 loses nothing when it is cut to four bits. -/
theorem isWordOf_of_regOperand (h : regOperand v = .ok i) : IsWordOf (assembleWord 0xC#4 v) i := by
  obtain ⟨hv, rfl⟩ := regOperand_ok.1 h
  have hn : (v.extractLsb' 0 4).toNat = v.toNat := by
    simp only [BitVec.extractLsb'_toNat, Nat.shiftRight_zero]
    omega
  refine ⟨decide_eq_true (hn ▸ hv), congrArg (assembleWord _) (BitVec.eq_of_toNat_eq ?_)⟩
  rw [BitVec.toNat_setWidth, hn]
  omega

/-- What the opcode map reads, the encoder writes back: the rows in their order. -/
theorem isWordOf_of_decodeFields (h : decodeFields o v = .ok i) : IsWordOf (assembleWord o v) i := by
  rcases opcode_cases o with
    rfl | rfl | rfl | rfl | rfl | rfl | rfl | rfl | rfl | rfl | rfl | rfl | rfl | hreserved
  · exact isWordOf_of_noOperand h ⟨rfl, rfl⟩
  · exact isWordOf_of_noOperand h ⟨rfl, rfl⟩
  · exact Except.ok.inj h ▸ ⟨rfl, rfl⟩
  · exact Except.ok.inj h ▸ ⟨rfl, rfl⟩
  · exact Except.ok.inj h ▸ ⟨rfl, rfl⟩
  · exact isWordOf_of_bitOperand (fun k => .pfin (variantOfBit k)) h fun b => by cases b <;> exact ⟨rfl, rfl⟩
  · exact isWordOf_of_bitOperand (fun k => .pvfy (variantOfBit k)) h fun b => by cases b <;> exact ⟨rfl, rfl⟩
  · exact Except.ok.inj h ▸ ⟨rfl, rfl⟩
  · exact Except.ok.inj h ▸ ⟨rfl, rfl⟩
  · exact isWordOf_of_bitOperand (fun d => .rinit (dirOfBit d)) h fun b => by cases b <;> exact ⟨rfl, rfl⟩
  · exact Except.ok.inj h ▸ ⟨rfl, rfl⟩
  · exact isWordOf_of_noOperand h ⟨rfl, rfl⟩
  · exact isWordOf_of_regOperand h
  · rcases hreserved with rfl | rfl | rfl <;> exact nomatch h

end

/-- A word decodes to a command exactly when it is the command's word (R50). -/
theorem decode_eq_ok_iff {w : Word16} {i : Instr} : decode w = .ok i ↔ IsWordOf w i := by
  constructor
  · intro h
    unfold decode at h
    split at h
    case isTrue hrsv =>
      rw [← assembleWord_fields w hrsv]
      exact isWordOf_of_decodeFields h
    case isFalse => cases h
  · rintro ⟨hwf, rfl⟩
    exact decode_encode_of_wf hwf

/-- Settles O13, by the opcode map read command by command. -/
theorem decodeEncode : Obligations.DecodeEncode := fun _ => decode_encode_of_wf

/-- Settles O14: each operand form determines the operand byte. -/
theorem encodeDecode : Obligations.EncodeDecode := fun _ _ => decode_eq_ok_iff.1

/-! ### The rows of the opcode map -/

section
variable {w mask value : Word16} {i : Instr}

/-- The bits of a word above its low `m`. -/
theorem toNat_and_highMask (w : Word16) (m : Nat) :
    (w &&& BitVec.allOnes 16 <<< m).toNat = w.toNat / 2 ^ m * 2 ^ m := by
  have hle := Nat.div_mul_le_self w.toNat (2 ^ m)
  rw [← BitVec.shiftLeft_ushiftRight, BitVec.toNat_shiftLeft, BitVec.toNat_ushiftRight, Nat.shiftRight_eq_div_pow,
    Nat.shiftLeft_eq, Nat.mod_eq_of_lt (hle.trans_lt w.isLt)]

/-- A word with an `m`-bit operand, split into the bits under the row's mask and the operand (R46). -/
theorem assembleWord_eq_iff {m : Nat} (hm : m ≤ 8) {o : BitVec 4} {x : BitVec m} :
    assembleWord o (x.setWidth 8) = w ↔ w &&& BitVec.allOnes 16 <<< m = assembleWord o 0#8 ∧ x = w.setWidth m := by
  have hx : x.toNat < 2 ^ 8 := x.isLt.trans_le (Nat.pow_le_pow_right two_pos hm)
  have hpos : 0 < 2 ^ m := Nat.two_pow_pos m
  obtain ⟨c, hc⟩ : 2 ^ m ∣ o.toNat * 4096 := Dvd.dvd.mul_left (pow_dvd_pow 2 (by omega : m ≤ 12)) _
  have hsplit := Nat.div_mod_unique (a := w.toNat) (c := x.toNat) (d := c) hpos
  rw [and_iff_left x.isLt] at hsplit
  simp only [← BitVec.toNat_inj, assembleWord_toNat, toNat_and_highMask, BitVec.toNat_setWidth, Nat.mod_eq_of_lt hx, hc]
  rw [Nat.add_comm, ← hsplit]
  simp [Nat.mul_comm (2 ^ m), Nat.mul_left_inj hpos.ne', eq_comm (a := x.toNat)]

/-- A row of the opcode map whose operand is the low `m` bits of the word. -/
theorem encode_row_iff {m : Nat} {o : BitVec 4} {x : BitVec m} (hm : m ≤ 8)
    (henc : encode i = assembleWord o (x.setWidth 8)) (hmask : mask = BitVec.allOnes 16 <<< m)
    (hvalue : value = assembleWord o 0#8) : encode i = w ↔ w &&& mask = value ∧ x = w.setWidth m := by
  rw [henc, hmask, hvalue, assembleWord_eq_iff hm]

/-- A row without operand. -/
theorem decode_fixed_row_iff (hwf : i.wf = true) (hmask : mask = BitVec.allOnes 16) :
    decode w = .ok i ↔ w &&& mask = encode i := by
  rw [decode_eq_ok_iff, IsWordOf, and_iff_right hwf, hmask, BitVec.and_allOnes, eq_comm]

/-- A row whose operand is all of `OPD`. -/
theorem decode_byte_row_iff {o : BitVec 4} {v : Byte} (hwf : i.wf = true) (henc : encode i = assembleWord o v)
    (hvalue : value = assembleWord o 0#8) :
    decode w = .ok i ↔ w &&& 0xFF00#16 = value ∧ v = w.setWidth 8 := by
  rw [decode_eq_ok_iff, IsWordOf, and_iff_right hwf]
  exact encode_row_iff (m := 8) le_rfl (by rw [henc, BitVec.setWidth_eq]) rfl hvalue

/-- A row whose operand is the bit `OPD[0]`. -/
theorem decode_bit_row_iff {o : BitVec 4} {b : BitVec 1} (hwf : i.wf = true)
    (henc : encode i = assembleWord o (b.setWidth 8)) (hvalue : value = assembleWord o 0#8) :
    decode w = .ok i ↔ w &&& 0xFFFE#16 = value ∧ b = BitVec.ofBool (w.getLsbD 0) := by
  rw [decode_eq_ok_iff, IsWordOf, and_iff_right hwf, ← BitVec.setWidth_one]
  exact encode_row_iff (by decide) henc rfl hvalue

end

theorem variantIndex_eq_ofBool {k : Variant} {b : Bool} :
    variantIndex k = BitVec.ofBool b ↔ k = if b then .b else .a := by
  cases k <;> cases b <;> decide

theorem dirBit_eq_ofBool {d : Dir} {b : Bool} :
    dirBit d = BitVec.ofBool b ↔ d = if b then .fiveToEight else .eightToFive := by
  cases d <;> cases b <;> decide

/-- Settles O11: a word is the command's word when it has the row's bits under the mask and the operand below it. -/
theorem opcodeMap : Obligations.OpcodeMap := by
  intro w
  refine ⟨decode_fixed_row_iff rfl rfl, decode_fixed_row_iff rfl rfl, fun _ => decode_byte_row_iff rfl rfl rfl,
    fun _ => decode_byte_row_iff rfl rfl rfl, fun _ => decode_byte_row_iff rfl rfl rfl, fun k => ?pfin, fun k => ?pvfy,
    fun _ => decode_byte_row_iff rfl rfl rfl, fun _ => decode_byte_row_iff rfl rfl rfl, fun d => ?rinit,
    fun _ => decode_byte_row_iff rfl rfl rfl, decode_fixed_row_iff rfl rfl, fun n => ?rdreg⟩
  case pfin =>
    rw [← variantIndex_eq_ofBool]
    exact decode_bit_row_iff rfl rfl rfl
  case pvfy =>
    rw [← variantIndex_eq_ofBool]
    exact decode_bit_row_iff rfl rfl rfl
  case rinit =>
    rw [← dirBit_eq_ofBool]
    exact decode_bit_row_iff rfl rfl rfl
  case rdreg =>
    have hrow : encode (.rdreg n) = w ↔ w &&& 0xFFF0#16 = 0xC000#16 ∧ n = w.setWidth 4 :=
      encode_row_iff (by decide) rfl rfl rfl
    rw [decode_eq_ok_iff, IsWordOf, hrow, Instr.wf, decide_eq_true_iff, and_comm, and_assoc]

/-! ### The illegal words -/

/-- The clauses of R49 that speak of `OPC` and `OPD`. -/
theorem decodeFields_error_iff (o : BitVec 4) (v : Byte) :
    (∃ e, decodeFields o v = .error e) ↔
      (13 ≤ o.toNat ∨ ((o.toNat = 0 ∨ o.toNat = 1 ∨ o.toNat = 11) ∧ v.toNat ≠ 0) ∨
        ((o.toNat = 5 ∨ o.toNat = 6 ∨ o.toNat = 9) ∧ 1 < v.toNat) ∨ (o.toNat = 12 ∧ 12 < v.toNat)) := by
  rcases opcode_cases o with
    rfl | rfl | rfl | rfl | rfl | rfl | rfl | rfl | rfl | rfl | rfl | rfl | rfl | rfl | rfl | rfl <;>
  simp [decodeFields, noOperand_error, bitOperand_error, regOperand_error]

/-- A word is illegal when its reserved field is not 0 or the opcode map has no row for its other fields (R49). -/
theorem decode_error_iff (w : Word16) :
    (∃ e, decode w = .error e) ↔ (rsvField w).toNat ≠ 0 ∨ ∃ e, decodeFields (opcField w) (opdField w) = .error e := by
  unfold decode
  split
  case isTrue h => simp [h]
  case isFalse h => simp [show (rsvField w).toNat ≠ 0 from fun h' => h (BitVec.eq_of_toNat_eq h')]

/-- Settles O12: the reserved field and the opcode map give R49's clauses; the answer is that to any illegal word. -/
theorem illegalWords : Obligations.IllegalWords := by
  refine ⟨rfl, fun w => ⟨?_, fun e s he => ?_⟩⟩
  · rw [decode_error_iff, decodeFields_error_iff, rsvField_toNat, opcField_toNat, opdField_toNat]
  · rw [executeWord, he]
    rfl

/-- Settles O10: each word is computed. -/
theorem wordsDecode : Obligations.WordsDecode :=
  ⟨rfl, rfl, rfl, rfl, rfl, rfl, rfl, rfl, rfl, rfl, rfl, rfl, rfl, rfl, rfl, rfl, rfl, rfl, rfl, rfl⟩

end Sys2Proof.Machine
end

section
/-! PROOFS. The assembler (R52, R53) produces only legal words: each part of it that can make a word does. -/

namespace Sys2Proof.Machine

/-- Every word of the list decodes to a command (R49). -/
def AllLegal (ws : List Word16) : Prop := ∀ w ∈ ws, ∃ i, decode w = .ok i

theorem AllLegal.nil : AllLegal [] := fun _ h => nomatch h

theorem AllLegal.cons {w : Word16} {ws : List Word16} {i : Instr} (hw : decode w = .ok i) (hws : AllLegal ws) :
    AllLegal (w :: ws) :=
  List.forall_mem_cons.2 ⟨⟨i, hw⟩, hws⟩

theorem AllLegal.append {ws ws' : List Word16} (h : AllLegal ws) (h' : AllLegal ws') : AllLegal (ws ++ ws') :=
  List.forall_mem_append.2 ⟨h, h'⟩

/-- The words of a list of commands of the block. -/
theorem allLegal_map_encode {is : List Instr} (h : ∀ i ∈ is, i.wf = true) : AllLegal (is.map encode) :=
  List.forall_mem_map.2 fun i hi => ⟨i, decode_encode_of_wf (h i hi)⟩

theorem wf_of_mem_pHrp {h : List Byte} : ∀ i ∈ pHrp h, i.wf = true := by
  simp only [pHrp, pSep, List.mem_append, List.mem_map, List.mem_singleton]
  rintro i ((⟨c, -, rfl⟩ | rfl) | ⟨c, -, rfl⟩) <;> rfl

/-- The assembler tests the word of a command before it gives it out. -/
theorem decode_of_checkedWord {o : BitVec 4} {v : Nat} {w : Word16} (h : checkedWord o v = .ok w) :
    ∃ i, decode w = .ok i := by
  unfold checkedWord at h
  split at h
  case isTrue => cases h
  case isFalse =>
    split at h
    next i hi =>
      cases h
      exact ⟨i, hi⟩
    next => cases h

theorem allLegal_of_checkedWords {o : BitVec 4} {vs : List Nat} {ws : List Word16} (h : checkedWords o vs = .ok ws) :
    AllLegal ws := by
  induction vs generalizing ws with
  | nil =>
    cases h
    exact .nil
  | cons v vs ih =>
    unfold checkedWords at h
    split at h
    next hw hws =>
      cases h
      obtain ⟨i, hi⟩ := decode_of_checkedWord hw
      exact .cons hi (ih hws)
    next => cases h
    next => cases h

theorem allLegal_of_asmCommand {o : BitVec 4} {kind : OperandKind} {operands : List Token} {ws : List Word16}
    (h : asmCommand o kind operands = .ok ws) : AllLegal ws := by
  unfold asmCommand at h
  split at h
  next => exact allLegal_of_checkedWords h
  next => cases h
  next =>
    split at h
    next => exact allLegal_of_checkedWords h
    next => cases h
  next => cases h

/-- The five pseudo-instructions of R53 in the order of the definition; the first two refuse any operand. -/
theorem allLegal_of_asmPseudo {m : List Char} {operands : List Token} {ws : List Word16}
    (h : asmPseudo m operands = some (.ok ws)) : AllLegal ws := by
  unfold asmPseudo at h
  split_ifs at h <;> replace h := Option.some.inj h
  · cases h
    exact allLegal_map_encode (by decide)
  · cases h
  · cases h
    exact allLegal_map_encode (by decide)
  · cases h
  · split at h
    next =>
      cases h
      exact allLegal_map_encode wf_of_mem_pHrp
    next => cases h
  · split at h
    next =>
      split at h
      next => exact allLegal_of_checkedWords h
      next => cases h
    next => cases h
  · split at h
    next =>
      split at h
      next =>
        split at h
        next hws =>
          cases h
          exact (allLegal_of_checkedWords hws).append (.cons (i := .rflush) rfl .nil)
        next => cases h
      next => cases h
    next => cases h

theorem allLegal_of_asmStatement {ts : List Token} {ws : List Word16} (h : asmStatement ts = .ok ws) : AllLegal ws := by
  unfold asmStatement at h
  split at h
  next =>
    cases h
    exact .nil
  next =>
    split at h
    next hpseudo => exact allLegal_of_asmPseudo (hpseudo.trans (congrArg some h))
    next =>
      split at h
      next => exact allLegal_of_asmCommand h
      next => cases h
  next => cases h

/-- The statements in order: each cut off at its end adds its own words. -/
theorem allLegal_of_asmTokens {cur ts : List Token} {ws : List Word16} (h : asmTokens cur ts = .ok ws) :
    AllLegal ws := by
  fun_induction asmTokens cur ts generalizing ws with
  | case1 cur => exact allLegal_of_asmStatement h
  | case2 cur rest ws₁ ws₂ hrest hcur ih =>
    cases h
    exact (allLegal_of_asmStatement hcur).append (ih hrest)
  | case3 => cases h
  | case4 => cases h
  | case5 cur t rest ht ih => exact ih h

/-- Settles O57: the scanner makes no words, and every statement makes legal ones. -/
theorem assembledWordsLegal : Obligations.AssembledWordsLegal := by
  intro text ws h
  unfold assemble at h
  split at h
  next => cases h
  next => exact allLegal_of_asmTokens h

end Sys2Proof.Machine
end

section
/-! PROOFS. The one response of every command (R48): which responses a command can give, said once for each operation
and then for the command, and the layout of the response word. -/

namespace Sys2Proof.Machine

/-- The responses R48 lets the command `i` give in the state `s`. -/
inductive Reply (s : State) : Instr → Response → Prop
  /-- every command but `RDREG` can fail, and then gives no data -/
  | failure {i : Instr} {c : Cause} (hi : ∀ n, i ≠ .rdreg n) (hc : c ≠ .ok) : Reply s i ⟨c, 0#2, 0#30⟩
  /-- a success without data -/
  | done {i : Instr} (hfin : ∀ k, i ≠ .pfin k) (hfinv : ∀ ver, i ≠ .pfinv ver) (hreg : ∀ n, i ≠ .rdreg n) :
      Reply s i ⟨.ok, 0#2, 0#30⟩
  /-- the checksum under a variant -/
  | checksum {k : Variant} : Reply s (.pfin k) ⟨.ok, 0#2, s.chk ^^^ s.cfg.k k⟩
  /-- the checksum under the variant of a version -/
  | checksumOfVersion {ver : Byte} : Reply s (.pfinv ver) ⟨.ok, 0#2, s.chk ^^^ s.cfg.k (variantOfVersion ver)⟩
  /-- the value of a register -/
  | register {n : BitVec 4} {v : Word30} (hv : readReg s n = some v) : Reply s (.rdreg n) ⟨.ok, 0#2, v⟩
  /-- one output unit of a push -/
  | pushedOne {v x : Byte} : Reply s (.rpush v) ⟨.ok, 1#2, packOne x⟩
  /-- two output units of a push -/
  | pushedTwo {v x y : Byte} : Reply s (.rpush v) ⟨.ok, 2#2, packTwo x y⟩
  /-- the last output unit -/
  | flushedOne {x : Byte} : Reply s .rflush ⟨.ok, 1#2, packOne x⟩

/-- Going from `s` to `t` the block gives one response, and it is one of the command `i` in `s`. -/
def Replies (i : Instr) (s t : State) : Prop := ∃ r, t.output = s.output ++ [r] ∧ Reply s i r

section
variable {i : Instr} {s : State}

theorem Replies.raiseFailure {u : PceUnit} {c : Cause} (hi : ∀ n, i ≠ .rdreg n) (hc : c ≠ .ok) :
    Replies i s (raiseFailure u c s) :=
  ⟨⟨c, 0#2, 0#30⟩, by cases u <;> rfl, .failure hi hc⟩

/-- A data command answers `FAILED` or replies as its body does. -/
theorem replies_of_unlessFailed {u : PceUnit} {body : State} (hi : ∀ n, i ≠ .rdreg n) (hb : Replies i s body) :
    ∃ t, unlessFailed u s body = .next t ∧ Replies i s t := by
  rcases unlessFailed_cases u s body with ⟨-, h⟩ | ⟨-, h⟩
  · exact ⟨_, h, _, rfl, .failure hi (by decide)⟩
  · exact ⟨_, h, hb⟩

theorem Replies.ite {c : Prop} [Decidable c] {t t' : State} (ht : Replies i s t) (ht' : Replies i s t') :
    Replies i s (if c then t else t') := by
  split
  · exact ht
  · exact ht'

theorem Replies.verify {k : Variant} (hfin : ∀ k, i ≠ .pfin k) (hfinv : ∀ ver, i ≠ .pfinv ver)
    (hreg : ∀ n, i ≠ .rdreg n) : Replies i s (verify k s) :=
  .ite ⟨_, rfl, .done hfin hfinv hreg⟩ (.raiseFailure hreg (by decide))

theorem Replies.pushByte {v : Byte} : Replies (.rpush v) s (pushByte v s) :=
  .ite ⟨_, rfl, .pushedTwo⟩ ⟨_, rfl, .pushedOne⟩

theorem Replies.pushSym {v : Byte} {x : Sym} : Replies (.rpush v) s (pushSym x s) :=
  .ite ⟨_, rfl, .pushedOne⟩ ⟨_, rfl, .done nofun nofun nofun⟩

theorem Replies.flushSyms : Replies .rflush s (flushSyms s) :=
  .ite ⟨_, rfl, .flushedOne⟩ ⟨_, rfl, .done nofun nofun nofun⟩

theorem Replies.flushBytes : Replies .rflush s (flushBytes s) :=
  .ite (.raiseFailure nofun (by decide))
    (.ite (.raiseFailure nofun (by decide)) ⟨_, rfl, .done nofun nofun nofun⟩)

/-- Every command of the block gives one response, of the form R48 gives it. -/
theorem exec_replies (hwf : i.wf = true) (s : State) : ∃ t, exec i s = .next t ∧ Replies i s t := by
  cases i with
  | nop => exact ⟨_, rfl, _, rfl, .done nofun nofun nofun⟩
  | pinit => exact ⟨_, rfl, _, rfl, .done nofun nofun nofun⟩
  | psym v =>
    exact replies_of_unlessFailed nofun
      (.ite (.raiseFailure nofun (by decide)) ⟨_, rfl, .done nofun nofun nofun⟩)
  | phrph c => exact replies_of_unlessFailed nofun ⟨_, rfl, .done nofun nofun nofun⟩
  | phrpl c => exact replies_of_unlessFailed nofun ⟨_, rfl, .done nofun nofun nofun⟩
  | pfin k => exact replies_of_unlessFailed nofun ⟨_, rfl, .checksum⟩
  | pvfy k => exact replies_of_unlessFailed nofun (.verify nofun nofun nofun)
  | pfinv ver =>
    exact replies_of_unlessFailed nofun (.ite (.raiseFailure nofun (by decide)) ⟨_, rfl, .checksumOfVersion⟩)
  | pvfyv ver =>
    exact replies_of_unlessFailed nofun (.ite (.raiseFailure nofun (by decide)) (.verify nofun nofun nofun))
  | rinit d => exact ⟨_, rfl, _, rfl, .done nofun nofun nofun⟩
  | rpush v =>
    refine replies_of_unlessFailed nofun ?_
    cases s.rdir with
    | eightToFive => exact .pushByte
    | fiveToEight => exact .ite (.raiseFailure nofun (by decide)) .pushSym
  | rflush =>
    refine replies_of_unlessFailed nofun ?_
    cases s.rdir with
    | eightToFive => exact .flushSyms
    | fiveToEight => exact .flushBytes
  | rdreg n =>
    obtain ⟨v, hv⟩ := Option.isSome_iff_exists.1 ((readReg_isSome s n).trans hwf)
    exact ⟨_, by rw [exec, execRdreg, hv], _, rfl, .register hv⟩

end

/-! ### What a reply says -/

section
variable {i : Instr} {s : State} {r : Response}

theorem Reply.of_cause_ne_ok (h : Reply s i r) (hc : r.cause ≠ .ok) : r.cnt = 0#2 ∧ r.data = 0#30 := by
  cases h with
  | failure => exact ⟨rfl, rfl⟩
  | _ => exact absurd rfl hc

theorem Reply.cnt_le (h : Reply s i r) : r.cnt.toNat ≤ 2 := by
  cases h <;> simp

theorem Reply.cnt_eq_zero (h : Reply s i r) (hpush : ∀ v, i ≠ .rpush v) (hflush : i ≠ .rflush) : r.cnt = 0#2 := by
  cases h with
  | pushedOne => exact absurd rfl (hpush _)
  | pushedTwo => exact absurd rfl (hpush _)
  | flushedOne => exact absurd rfl hflush
  | _ => rfl

theorem Reply.data_pfin {k : Variant} (h : Reply s i r) (hi : i = .pfin k) (hc : r.cause = .ok) :
    r.data = s.chk ^^^ s.cfg.k k := by
  subst hi
  cases h with
  | failure _ hne => exact absurd hc hne
  | done hfin => exact absurd rfl (hfin k)
  | checksum => rfl

theorem Reply.data_pfinv {ver : Byte} (h : Reply s i r) (hi : i = .pfinv ver) (hc : r.cause = .ok) :
    r.data = s.chk ^^^ s.cfg.k (variantOfVersion ver) := by
  subst hi
  cases h with
  | failure _ hne => exact absurd hc hne
  | done _ hfinv => exact absurd rfl (hfinv ver)
  | checksumOfVersion => rfl

theorem Reply.data_rdreg {n : BitVec 4} (h : Reply s i r) (hi : i = .rdreg n) : readReg s n = some r.data := by
  subst hi
  cases h with
  | failure hreg => exact absurd rfl (hreg n)
  | done _ _ hreg => exact absurd rfl (hreg n)
  | register hv => exact hv

theorem packOne_toNat (x : Byte) : (packOne x).toNat = x.toNat := by
  have hx := x.isLt
  rw [packOne, BitVec.toNat_setWidth, Nat.mod_eq_of_lt (by omega)]

theorem packTwo_toNat (x y : Byte) : (packTwo x y).toNat = x.toNat + 256 * y.toNat := by
  have hx := x.isLt
  have hy := y.isLt
  rw [packTwo, BitVec.toNat_setWidth, toNat_append_eq]
  omega

/-- The data of a command that gives output units are the units, one byte each (R37). -/
theorem Reply.data_units (h : Reply s i r) (hi : (∃ v, i = .rpush v) ∨ i = .rflush) :
    r.data.toNat = (r.units.getD 0 0#8).toNat + 256 * (r.units.getD 1 0#8).toNat ∧ r.units.length = r.cnt.toNat := by
  cases h with
  | failure => exact ⟨rfl, rfl⟩
  | done => exact ⟨rfl, rfl⟩
  | checksum => simp at hi
  | checksumOfVersion => simp at hi
  | register => simp at hi
  | pushedOne =>
    rw [units_packOne, packOne_toNat]
    exact ⟨rfl, rfl⟩
  | pushedTwo =>
    rw [units_packTwo, packTwo_toNat]
    exact ⟨rfl, rfl⟩
  | flushedOne =>
    rw [units_packOne, packOne_toNat]
    exact ⟨rfl, rfl⟩

theorem Reply.data_eq_zero (h : Reply s i r) (hfin : ∀ k, i ≠ .pfin k) (hfinv : ∀ ver, i ≠ .pfinv ver)
    (hreg : ∀ n, i ≠ .rdreg n) (hpush : ∀ v, i ≠ .rpush v) (hflush : i ≠ .rflush) : r.data = 0#30 := by
  cases h with
  | failure => rfl
  | done => rfl
  | checksum => exact absurd rfl (hfin _)
  | checksumOfVersion => exact absurd rfl (hfinv _)
  | register => exact absurd rfl (hreg _)
  | pushedOne => exact absurd rfl (hpush _)
  | pushedTwo => exact absurd rfl (hpush _)
  | flushedOne => exact absurd rfl hflush

end

/-- The fields of the response word (R48). -/
theorem Response.word_toNat (r : Response) :
    r.word.toNat = r.cause.code.toNat * 2 ^ 32 + r.cnt.toNat * 2 ^ 30 + r.data.toNat := by
  rw [Response.word, toNat_append_eq, toNat_append_eq]
  ring

/-- Settles O9: the answer to an illegal word is the one response `ILLEGAL`, and a command replies as R48 says. -/
theorem oneResponseACommand : Obligations.OneResponseACommand := by
  refine ⟨fun s w rest hin => ?_, Response.word_toNat⟩
  rcases hd : decode w with e | i
  · exact ⟨_, _, step_illegal hin hd, rfl, fun _ => ⟨rfl, rfl⟩, by decide, fun _ h => nomatch h⟩
  · obtain ⟨hwf, -⟩ := decode_eq_ok_iff.1 hd
    obtain ⟨t, ht, r, hout, hr⟩ := exec_replies hwf { s with input := rest }
    refine ⟨t, r, (step_legal hin hd).trans ht, hout, hr.of_cause_ne_ok, hr.cnt_le, fun j hj => ?_⟩
    obtain rfl : i = j := Except.ok.inj hj
    exact ⟨hr.cnt_eq_zero, fun _ => hr.data_pfin, fun _ => hr.data_pfinv, fun _ => hr.data_rdreg, hr.data_units,
      hr.data_eq_zero⟩

end Sys2Proof.Machine
end

section
/-! PROOFS. The polymod as a linear map (R61 to R68): the step in numbers, its linearity, and what six symbols after a
stream do to it. -/

namespace Sys2Proof.Machine

/-! ### The step in numbers, and its linearity -/

section
variable (c : Config)

/-- The moved state with the symbol below it, as a number (R61). -/
theorem shifted_toNat (chk : Word30) (v : Sym) :
    (chk.extractLsb' 0 25 ++ v).toNat = chk.toNat % 2 ^ 25 * 32 + v.toNat := by
  rw [toNat_append_eq, BitVec.extractLsb'_toNat, Nat.shiftRight_zero]
  rfl

theorem top_toNat (chk : Word30) : (chk.extractLsb' 25 5).toNat = chk.toNat / 2 ^ 25 := by
  have hchk := chk.isLt
  rw [BitVec.extractLsb'_toNat, Nat.shiftRight_eq_div_pow]
  omega

/-- As long as the top five bits are 0, a step only moves the state up and puts the symbol below it. -/
theorem polymodStep_toNat_of_lt {chk : Word30} (h : chk.toNat < 2 ^ 25) (v : Sym) :
    (polymodStep c chk v).toNat = chk.toNat * 32 + v.toNat := by
  have htop : chk.extractLsb' 25 5 = 0#5 := BitVec.eq_of_toNat_eq (by rw [top_toNat, Nat.div_eq_of_lt h]; rfl)
  have hstep : polymodStep c chk v = chk.extractLsb' 0 25 ++ v := by
    simp only [polymodStep, htop, genFold_zero, BitVec.xor_zero]
  rw [hstep, shifted_toNat, Nat.mod_eq_of_lt h]

/-- R66 for the step. -/
theorem polymodStep_xor (x y : Word30) (v w : Sym) :
    polymodStep c (x ^^^ y) (v ^^^ w) = polymodStep c x v ^^^ polymodStep c y w := by
  simp only [polymodStep, BitVec.extractLsb'_xor, append_xor, genFold_xor]
  ac_rfl

/-- R66 for the fold. -/
theorem polymodFold_xor (x y : Word30) {a b : List Sym} (h : a.length = b.length) :
    polymodFold c (x ^^^ y) (List.zipWith (· ^^^ ·) a b) = polymodFold c x a ^^^ polymodFold c y b := by
  induction a generalizing x y b with
  | nil =>
    obtain rfl := List.length_eq_zero_iff.1 h.symm
    rfl
  | cons v a ih =>
    obtain ⟨w, b, rfl⟩ := List.exists_cons_of_length_eq_add_one h.symm
    have hstep := ih (polymodStep c x v) (polymodStep c y w) (Nat.succ_inj.1 h)
    rwa [← polymodStep_xor] at hstep

/-- Settles O40: the top five bits choose the entries, the others move up. -/
theorem polymodStepBits : Obligations.PolymodStepBits := by
  intro c chk v
  have hshift : chk.extractLsb' 0 25 ++ v = BitVec.ofNat 30 (chk.toNat % 2 ^ 25 * 32 + v.toNat) :=
    BitVec.eq_of_toNat_eq <| by
      have hv := v.isLt
      rw [shifted_toNat, BitVec.toNat_ofNat]
      omega
  rw [polymodStep, ← hshift]
  simp [genFold, genTerm]

/-- Settles O41: slices, concatenation and the folded term distribute over exclusive or. -/
theorem polymodLinear : Obligations.PolymodLinear :=
  ⟨polymodStep_xor, fun c x y _ _ h => polymodFold_xor c x y h⟩

/-! ### Six symbols from zero, and the created checksum -/

/-- As long as the symbols fit below the top, the fold only writes them one after another. -/
theorem polymodFold_toNat {chk : Word30} {k : Nat} {l : List Sym} (h : chk.toNat < 32 ^ k) (hl : k + l.length ≤ 6) :
    (polymodFold c chk l).toNat = l.foldl (fun n v => n * 32 + v.toNat) chk.toNat := by
  induction l generalizing chk k with
  | nil => rfl
  | cons v l ih =>
    rw [List.length_cons] at hl
    have hlt : chk.toNat < 32 ^ 5 := h.trans_le (Nat.pow_le_pow_right (by decide) (by omega))
    have hstep := polymodStep_toNat_of_lt c hlt v
    have hv := v.isLt
    rw [List.foldl_cons, ← hstep]
    exact ih (k := k + 1) (by rw [hstep, pow_succ]; omega) (by omega)

/-- From the zero state six symbols become the six fields of the state (R35). -/
theorem polymodFold_six_toNat (v0 v1 v2 v3 v4 v5 : Sym) :
    (polymodFold c 0#30 [v0, v1, v2, v3, v4, v5]).toNat =
      ((((v0.toNat * 32 + v1.toNat) * 32 + v2.toNat) * 32 + v3.toNat) * 32 + v4.toNat) * 32 + v5.toNat := by
  rw [polymodFold_toNat c (k := 0) (by decide) (by simp)]
  simp

/-- The fields of a 30-bit value as numbers (R35). -/
theorem field_toNat (m : Word30) (lo : Nat) : (m.extractLsb' lo 5).toNat = m.toNat / 2 ^ lo % 32 := by
  rw [BitVec.extractLsb'_toNat, Nat.shiftRight_eq_div_pow]

theorem polymodFold_checksumSymbols (m : Word30) : polymodFold c 0#30 (checksumSymbols m) = m := by
  have hm := m.isLt
  apply BitVec.eq_of_toNat_eq
  simp only [checksumSymbols, polymodFold_six_toNat, field_toNat]
  omega

theorem checksumSymbols_polymodFold {tail : List Sym} (h : tail.length = 6) :
    checksumSymbols (polymodFold c 0#30 tail) = tail := by
  obtain ⟨v0, v1, v2, v3, v4, v5, rfl⟩ : ∃ v0 v1 v2 v3 v4 v5, tail = [v0, v1, v2, v3, v4, v5] := by
    match tail, h with
    | [v0, v1, v2, v3, v4, v5], _ => exact ⟨v0, v1, v2, v3, v4, v5, rfl⟩
  have h0 := v0.isLt
  have h1 := v1.isLt
  have h2 := v2.isLt
  have h3 := v3.isLt
  have h4 := v4.isLt
  have h5 := v5.isLt
  simp only [checksumSymbols, List.cons.injEq, and_true, ← BitVec.toNat_inj, field_toNat, polymodFold_six_toNat]
  omega

end

section
variable {c : Config} {h : List Byte} {d : List Sym} {k : Variant}

/-- Six symbols after a stream add to what six zeros after it give (R67). -/
theorem polymod_append_six (l : List Sym) {tail : List Sym} (ht : tail.length = 6) :
    polymod c (l ++ tail) = polymod c (l ++ sixZeros) ^^^ polymodFold c 0#30 tail := by
  have hzip : List.zipWith (· ^^^ ·) sixZeros tail = tail := by
    match tail, ht with
    | [v0, v1, v2, v3, v4, v5], _ => simp [sixZeros, List.replicate_succ]
  simp only [polymod, polymodFold_append]
  rw [← polymodFold_xor c _ 0#30 (show sixZeros.length = tail.length from ht.symm), hzip, BitVec.xor_zero]

/-- A six-symbol tail verifies exactly when it folds to the `m` of R64. -/
theorem checksumVerify_append_iff {tail : List Sym} (ht : tail.length = 6) :
    checksumVerify c h (d ++ tail) k = true ↔ polymodFold c 0#30 tail = checksumValue c h d k := by
  rw [checksumVerify, decide_eq_true_iff, ← List.append_assoc, polymod_append_six _ ht, checksumValue]
  generalize polymod c _ = x
  generalize polymodFold c 0#30 tail = y
  constructor
  · intro hxy
    rw [← hxy, ← BitVec.xor_assoc, BitVec.xor_self, BitVec.zero_xor]
  · intro hy
    rw [hy, ← BitVec.xor_assoc, BitVec.xor_self, BitVec.zero_xor]

theorem checksumVerify_created : checksumVerify c h (d ++ checksumCreate c h d k) k = true :=
  (checksumVerify_append_iff rfl).2 (polymodFold_checksumSymbols c _)

/-- Settles O42: the fields of `m` fold to `m`, and no other six symbols do. -/
theorem createdChecksumVerifies : Obligations.CreatedChecksumVerifies := by
  refine fun c h d k => ⟨checksumVerify_created, fun tail ht hv => ?_⟩
  rw [checksumCreate, ← (checksumVerify_append_iff ht).1 hv, checksumSymbols_polymodFold c ht]

/-- Different variants have different constants if the two constants differ. -/
theorem k_ne_of_ne {k' : Variant} (hab : c.ka ≠ c.kb) (hk : k ≠ k') : c.k k ≠ c.k k' := by
  cases k <;> cases k'
  · exact absurd rfl hk
  · exact hab
  · exact hab.symm
  · exact absurd rfl hk

/-- Settles O43: the polymod that is one constant is not the other. -/
theorem variantBinding : Obligations.VariantBinding := by
  refine ⟨by decide, fun c h d k k' hab hk => decide_eq_false fun hv => k_ne_of_ne hab hk ?_⟩
  exact (of_decide_eq_true checksumVerify_created).symm.trans hv

end

end Sys2Proof.Machine
end

section
/-! PROOFS. Error detection (R69): which differences between two streams the polymod with the default generator values
never loses. -/

namespace Sys2Proof.Machine

/-! ### One difference -/

/-- One step with the symbol 0, the map `T` of R69. -/
def zeroStep (x : Word30) : Word30 := polymodStep Config.default x 0#5

section
variable {c : Config}

/-- The fold depends on the generator values only. -/
theorem polymodFold_eq_default (h0 : c.gen0 = Config.default.gen0) (h1 : c.gen1 = Config.default.gen1)
    (h2 : c.gen2 = Config.default.gen2) (h3 : c.gen3 = Config.default.gen3) (h4 : c.gen4 = Config.default.gen4) :
    polymodFold c = polymodFold Config.default := by
  have hstep : polymodStep c = polymodStep Config.default := by
    funext chk v
    simp only [polymodStep, genFold, h0, h1, h2, h3, h4]
  funext chk l
  rw [polymodFold, hstep, polymodFold]

theorem polymodStep_zero (v : Sym) : polymodStep Config.default 0#30 v = v.setWidth 30 := by
  apply BitVec.eq_of_toNat_eq
  rw [polymodStep_toNat_of_lt _ (by decide), BitVec.toNat_setWidth, BitVec.toNat_zero]
  have hv := v.isLt
  omega

/-- A symbol enters in the low five bits, whatever the state. -/
theorem polymodStep_eq_zeroStep_xor (x : Word30) (v : Sym) :
    polymodStep Config.default x v = zeroStep x ^^^ v.setWidth 30 := by
  rw [zeroStep, ← polymodStep_zero, ← polymodStep_xor, BitVec.xor_zero, BitVec.zero_xor]

/-- The low five bits of the folded term tell which entries were chosen. -/
theorem eq_zero_of_low_genFold :
    ∀ top : BitVec 5, (genFold Config.default top).extractLsb' 0 5 = 0#5 → top = 0#5 := by decide

/-- `T` has full rank (R69): the folded term cannot be undone by the moved bits, which leave the low five alone. -/
theorem eq_zero_of_zeroStep_eq_zero {x : Word30} (h : zeroStep x = 0#30) : x = 0#30 := by
  have hlow : (x.extractLsb' 0 25 ++ 0#5).extractLsb' 0 5 = 0#5 := by
    apply BitVec.eq_of_toNat_eq
    rw [field_toNat, shifted_toNat]
    simp
  have htop : x.extractLsb' 25 5 = 0#5 := by
    apply eq_zero_of_low_genFold
    have hx := congrArg (BitVec.extractLsb' 0 5) h
    rwa [zeroStep, polymodStep, BitVec.extractLsb'_xor, hlow, BitVec.zero_xor] at hx
  have hlt : x.toNat < 2 ^ 25 := by
    have hdiv : x.toNat / 2 ^ 25 = 0 := by rw [← top_toNat, htop, BitVec.toNat_zero]
    omega
  have hmul := polymodStep_toNat_of_lt Config.default hlt 0#5
  rw [← zeroStep, h, BitVec.toNat_zero, BitVec.toNat_zero] at hmul
  exact BitVec.eq_of_toNat_eq (by rw [BitVec.toNat_zero]; omega)

theorem polymodStep_injective (v : Sym) : Function.Injective (polymodStep Config.default · v) := by
  intro x y hxy
  have hzero : zeroStep (x ^^^ y) = 0#30 := by
    rw [zeroStep, ← BitVec.xor_self (x := v), polymodStep_xor]
    exact BitVec.xor_eq_zero_iff.2 hxy
  exact BitVec.xor_eq_zero_iff.1 (eq_zero_of_zeroStep_eq_zero hzero)

/-- Symbols that follow never make two different states equal. -/
theorem polymodFold_injective (l : List Sym) : Function.Injective (polymodFold Config.default · l) := by
  induction l with
  | nil => exact fun _ _ h => h
  | cons v l ih => exact fun x y h => polymodStep_injective v (ih h)

/-- Two steps from one state with different symbols differ. -/
theorem polymodStep_sym_injective (x : Word30) : Function.Injective (polymodStep Config.default x) := by
  intro v w hvw
  rw [polymodStep_eq_zeroStep_xor, polymodStep_eq_zeroStep_xor, BitVec.xor_right_inj] at hvw
  have hnat := congrArg BitVec.toNat hvw
  rw [BitVec.toNat_setWidth, BitVec.toNat_setWidth] at hnat
  apply BitVec.eq_of_toNat_eq
  have hv := v.isLt
  have hw := w.isLt
  omega

/-- A verification that succeeded fails on a stream with another polymod. -/
theorem checksumVerify_eq_false_of_ne {h h' : List Byte} {dc dc' : List Sym} {k : Variant}
    (hne : polymod c (hrpExpand h ++ dc) ≠ polymod c (hrpExpand h' ++ dc')) (hv : checksumVerify c h dc k = true) :
    checksumVerify c h' dc' k = false :=
  decide_eq_false fun hv' => hne ((of_decide_eq_true hv).trans hv'.symm)

/-- Settles O44: the two substituted streams differ after the symbol, and stay different. -/
theorem substitutionDetected : Obligations.SubstitutionDetected := by
  intro c h before rest v v' k hgen0 hgen1 hgen2 hgen3 hgen4 hv
  refine checksumVerify_eq_false_of_ne fun heq => hv ?_
  simp only [polymod, ← List.append_assoc, polymodFold_append c _ (_ ++ before),
    polymodFold_eq_default hgen0 hgen1 hgen2 hgen3 hgen4] at heq
  exact polymodStep_sym_injective _ (polymodFold_injective rest heq)

/-! ### Two differences, as an hrp character makes them -/

theorem polymodFold_zeros (x : Word30) (n : Nat) :
    polymodFold Config.default x (List.replicate n 0#5) = zeroStep^[n] x := by
  induction n generalizing x with
  | zero => rfl
  | succ n ih => exact ih (zeroStep x)

/-- The values `T`, ..., `T^199` take at a difference of two high parts are all above the low five bits: R69's
evaluation of the default table. -/
theorem all_iterate_zeroStep : ∀ e : BitVec 3, e ≠ 0#3 →
    (List.iterate zeroStep (zeroStep (e.setWidth 30)) 199).all (fun x => decide (32 ≤ x.toNat)) = true := by
  decide +kernel

theorem le_zeroStep_iterate {e : BitVec 3} (he : e ≠ 0#3) {n : Nat} (hn : n < 199) :
    32 ≤ (zeroStep^[n + 1] (e.setWidth 30)).toNat := by
  refine of_decide_eq_true (List.all_eq_true.1 (all_iterate_zeroStep e he) _ ?_)
  exact List.mem_iterate.2 ⟨n, hn, rfl⟩

/-- Two streams that differ in two symbols with equal symbols between them. -/
theorem polymodFold_two_differences (x : Word30) (a a' b b' : Sym) (mid : List Sym) :
    polymodFold Config.default x (a :: mid ++ [b]) ^^^ polymodFold Config.default x (a' :: mid ++ [b']) =
      zeroStep^[mid.length + 1] ((a ^^^ a').setWidth 30) ^^^ (b ^^^ b').setWidth 30 := by
  have hdiff : List.zipWith (· ^^^ ·) (a :: mid ++ [b]) (a' :: mid ++ [b']) =
      (a ^^^ a') :: List.replicate mid.length 0#5 ++ [b ^^^ b'] := by
    simp [List.zipWith_append, List.zipWith_self]
  rw [← polymodFold_xor _ _ _ (by simp), hdiff, BitVec.xor_self, polymodFold_append]
  have hfirst : polymodFold Config.default 0#30 ((a ^^^ a') :: List.replicate mid.length 0#5) =
      zeroStep^[mid.length] ((a ^^^ a').setWidth 30) := by
    rw [← polymodStep_zero, ← polymodFold_zeros]
    rfl
  rw [hfirst, Function.iterate_succ_apply', ← polymodStep_eq_zeroStep_xor]
  rfl

/-- The two parts of a character determine it (R36). -/
theorem eq_of_hrp_parts {x y : Byte} (hhigh : hrpHigh x = hrpHigh y) (hlow : hrpLow x = hrpLow y) : x = y := by
  have hdiv := congrArg BitVec.toNat hhigh
  have hmod := congrArg BitVec.toNat hlow
  rw [hrpHigh_toNat, hrpHigh_toNat] at hdiv
  rw [hrpLow, hrpLow, lowSym_toNat, lowSym_toNat] at hmod
  apply BitVec.eq_of_toNat_eq
  omega

/-- What the two changed symbols of a substituted hrp character add never cancels (R69): a changed high part stays above
the low five bits, and without one the low part is changed. -/
theorem hrp_difference_ne {x y : Byte} (hxy : x ≠ y) {n : Nat} (hn : n < 199) :
    zeroStep^[n + 1] ((hrpHigh x ^^^ hrpHigh y).setWidth 30) ≠ (hrpLow x ^^^ hrpLow y).setWidth 30 := by
  intro heq
  have hhigh : (hrpHigh x ^^^ hrpHigh y).setWidth 30 = (x.extractLsb' 5 3 ^^^ y.extractLsb' 5 3).setWidth 30 := by
    simp [hrpHigh]
  have hlow := (hrpLow x ^^^ hrpLow y).isLt
  by_cases he : x.extractLsb' 5 3 ^^^ y.extractLsb' 5 3 = 0#3
  · refine hxy (eq_of_hrp_parts ?_ ?_)
    · rw [hrpHigh, BitVec.xor_eq_zero_iff.1 he, hrpHigh]
    · rw [hhigh, he, BitVec.setWidth_zero, Function.iterate_fixed (by decide : zeroStep 0#30 = 0#30)] at heq
      have hzero := congrArg BitVec.toNat heq
      rw [BitVec.toNat_setWidth, Nat.mod_eq_of_lt (by omega)] at hzero
      exact BitVec.xor_eq_zero_iff.1 (BitVec.eq_of_toNat_eq hzero.symm)
  · have hle := le_zeroStep_iterate he hn
    rw [← hhigh, heq, BitVec.toNat_setWidth] at hle
    omega

/-- The symbols between the two parts of one character of an hrp. -/
def hrpBetween (before rest : List Byte) : List Sym := rest.map hrpHigh ++ [0#5] ++ before.map hrpLow

theorem hrpBetween_length (before rest : List Byte) (x : Byte) :
    (hrpBetween before rest).length = (before ++ x :: rest).length := by
  simp [hrpBetween]
  omega

theorem hrpExpand_around (before rest : List Byte) (x : Byte) (dc : List Sym) :
    hrpExpand (before ++ x :: rest) ++ dc =
      before.map hrpHigh ++ (hrpHigh x :: hrpBetween before rest ++ [hrpLow x]) ++ (rest.map hrpLow ++ dc) := by
  simp [hrpExpand, hrpBetween]

/-- Settles O45: the character's two symbols make a difference that does not cancel, and it stays. -/
theorem hrpSubstitutionDetected : Obligations.HrpSubstitutionDetected := by
  intro c before rest x y dc k hgen0 hgen1 hgen2 hgen3 hgen4 hxy hlength
  refine checksumVerify_eq_false_of_ne fun heq => ?_
  simp only [polymod, hrpExpand_around, polymodFold_append c _ (_ ++ _) (_ ++ dc),
    polymodFold_append c _ (before.map _) (_ ++ _), polymodFold_eq_default hgen0 hgen1 hgen2 hgen3 hgen4] at heq
  have hxor := BitVec.xor_eq_zero_iff.2 (polymodFold_injective _ heq)
  rw [polymodFold_two_differences] at hxor
  rw [hrpBetween_length before rest x] at hxor
  exact hrp_difference_ne hxy (by omega) (BitVec.xor_eq_zero_iff.1 hxor)

end

end Sys2Proof.Machine
end

section
/-! PROOFS. The effects of the P-unit's commands (R70 to R78): the word, the answer in the failed state, and each branch
of the live one. -/

namespace Sys2Proof.Machine

/-! ### Words -/

theorem assembleWord_eq_ofNat (o : BitVec 4) (v : Byte) :
    assembleWord o v = BitVec.ofNat 16 (o.toNat * 4096 + v.toNat) :=
  BitVec.eq_of_toNat_eq <| by
    have ho := o.isLt
    have hv := v.isLt
    rw [assembleWord_toNat, BitVec.toNat_ofNat]
    omega

/-- A variant or direction operand above 1 makes an illegal word (R49). -/
theorem executeWord_of_operand_above_one {w : Word16}
    (hopc : w.toNat / 4096 = 5 ∨ w.toNat / 4096 = 6 ∨ w.toNat / 4096 = 9) (hopd : 1 < w.toNat % 256) (s : State) :
    executeWord w s = .next (answerIllegal s) := by
  obtain ⟨hiff, hanswer⟩ := illegalWords.2 w
  obtain ⟨e, he⟩ := hiff.2 (.inr (.inr (.inr (.inl ⟨hopc, hopd⟩))))
  exact hanswer e s he

/-! ### The commands, branch by branch -/

section
variable {i : Instr} {s : State}

/-- In the failed state a P-unit data command answers `FAILED` and does nothing else (R158). -/
theorem exec_failed_p (hi : unitOf i = some .p) (hskip : skipsFailedTest i = false) (hfail : s.pfail = true) :
    exec i s = .next (respond .failed 0#2 0#30 s) := by
  cases i with
  | pinit => simp [skipsFailedTest] at hskip
  | psym v | phrph c | phrpl c | pfin k | pvfy k | pfinv ver | pvfyv ver => exact unlessFailed_failed hfail
  | _ => simp [unitOf] at hi

variable (hlive : s.pfail = false)
include hlive

theorem exec_psym_le {v : Byte} (hv : v.toNat ≤ 31) : exec (.psym v) s = .next (stepChk (lowSym v) s) := by
  rw [exec, execPsym, aboveSym, decide_eq_false (by omega)]
  exact unlessFailed_live hlive

theorem exec_psym_above {v : Byte} (hv : 31 < v.toNat) :
    exec (.psym v) s = .next (raiseFailure .p .symRange s) := by
  rw [exec, execPsym, aboveSym, decide_eq_true hv]
  exact unlessFailed_live hlive

theorem exec_phrph_live (c : Byte) : exec (.phrph c) s = .next (stepChk (hrpHigh c) s) := unlessFailed_live hlive

theorem exec_phrpl_live (c : Byte) : exec (.phrpl c) s = .next (stepChk (hrpLow c) s) := unlessFailed_live hlive

theorem exec_pfin_live (k : Variant) : exec (.pfin k) s = .next (finish k s) := unlessFailed_live hlive

theorem exec_pvfy_live (k : Variant) : exec (.pvfy k) s = .next (verify k s) := unlessFailed_live hlive

theorem exec_pfinv_le {ver : Byte} (hver : ver.toNat ≤ s.cfg.versionMax) :
    exec (.pfinv ver) s = .next (finish (variantOfVersion ver) s) := by
  rw [exec, execPfinv, aboveVersion, decide_eq_false (by omega)]
  exact unlessFailed_live hlive

theorem exec_pfinv_above {ver : Byte} (hver : s.cfg.versionMax < ver.toNat) :
    exec (.pfinv ver) s = .next (raiseFailure .p .version s) := by
  rw [exec, execPfinv, aboveVersion, decide_eq_true hver]
  exact unlessFailed_live hlive

theorem exec_pvfyv_le {ver : Byte} (hver : ver.toNat ≤ s.cfg.versionMax) :
    exec (.pvfyv ver) s = .next (verify (variantOfVersion ver) s) := by
  rw [exec, execPvfyv, aboveVersion, decide_eq_false (by omega)]
  exact unlessFailed_live hlive

theorem exec_pvfyv_above {ver : Byte} (hver : s.cfg.versionMax < ver.toNat) :
    exec (.pvfyv ver) s = .next (raiseFailure .p .version s) := by
  rw [exec, execPvfyv, aboveVersion, decide_eq_true hver]
  exact unlessFailed_live hlive

end

section
variable {k : Variant} {s : State}

theorem verify_of_eq (h : s.chk = s.cfg.k k) : verify k s = respondOk s := if_pos h

theorem verify_of_ne (h : s.chk ≠ s.cfg.k k) : verify k s = raiseFailure .p .checksum s := if_neg h

end

/-- The constant a version selects (R78). -/
theorem k_variantOfVersion (c : Config) (ver : Byte) :
    c.k (variantOfVersion ver) = if ver.toNat = 0 then c.ka else c.kb := by
  by_cases h : ver.toNat = 0
  · obtain rfl : ver = 0#8 := BitVec.eq_of_toNat_eq h
    rfl
  · have hne : ver ≠ 0#8 := fun h' => h (h' ▸ rfl)
    rw [if_neg h, variantOfVersion, if_neg hne, Config.k]

/-! ### The symbols as numbers -/

theorem lowSym_eq_ofNat (v : Byte) : lowSym v = BitVec.ofNat 5 v.toNat :=
  BitVec.eq_of_toNat_eq (by rw [lowSym_toNat, BitVec.toNat_ofNat])

theorem hrpHigh_eq_ofNat (c : Byte) : hrpHigh c = BitVec.ofNat 5 (c.toNat / 32) :=
  BitVec.eq_of_toNat_eq <| by
    have hc := c.isLt
    rw [hrpHigh_toNat, BitVec.toNat_ofNat]
    omega

theorem hrpLow_eq_ofNat (c : Byte) : hrpLow c = BitVec.ofNat 5 (c.toNat % 32) :=
  BitVec.eq_of_toNat_eq <| by
    rw [hrpLow, lowSym_toNat, BitVec.toNat_ofNat]
    omega

/-! ### The obligations -/

/-- Settles O18: the return from the failed state, beside the initial state of the polymod. -/
theorem pinitEffect : Obligations.PinitEffect := fun _ => ⟨rfl, rfl⟩

/-- Settles O19: the three branches of R71. -/
theorem psymEffect : Obligations.PsymEffect := by
  intro v s
  refine ⟨assembleWord_eq_ofNat 2#4 v, exec_failed_p rfl rfl, fun hlive => exec_psym_above hlive, fun hlive hv => ?_⟩
  rw [exec_psym_le hlive hv, lowSym_eq_ofNat]
  rfl

/-- Settles O20: `OPD[7:5]` is the character divided by 32. -/
theorem phrphEffect : Obligations.PhrphEffect := by
  intro c s
  refine ⟨assembleWord_eq_ofNat 3#4 c, exec_failed_p rfl rfl, fun hlive => ?_⟩
  rw [exec_phrph_live hlive, hrpHigh_eq_ofNat]
  rfl

/-- Settles O21: `OPD[4:0]` is the character's remainder by 32. -/
theorem phrplEffect : Obligations.PhrplEffect := by
  intro c s
  refine ⟨assembleWord_eq_ofNat 4#4 c, exec_failed_p rfl rfl, fun hlive => ?_⟩
  rw [exec_phrpl_live hlive, hrpLow_eq_ofNat]
  rfl

/-- Settles O22: the words above the two variants' have an operand above 1. -/
theorem pfinEffect : Obligations.PfinEffect := fun s =>
  ⟨rfl, rfl, fun _ => exec_failed_p rfl rfl, fun hlive => ⟨exec_pfin_live hlive .a, exec_pfin_live hlive .b⟩,
    fun _ _ _ => executeWord_of_operand_above_one (.inl (by omega)) (by omega) s⟩

/-- Settles O23: the two branches of the comparison. -/
theorem pvfyEffect : Obligations.PvfyEffect := by
  intro k s
  refine ⟨rfl, rfl, exec_failed_p rfl rfl, fun hlive heq => ?_, fun hlive hne => ?_,
    fun _ _ _ => executeWord_of_operand_above_one (.inr (.inl (by omega))) (by omega) s⟩
  · rw [exec_pvfy_live hlive, verify_of_eq (by cases k <;> exact heq)]
    rfl
  · rw [exec_pvfy_live hlive, verify_of_ne (by cases k <;> exact hne)]
    rfl

/-- Settles O24: the version is tested before its variant's constant is used. -/
theorem pfinvEffect : Obligations.PfinvEffect := by
  intro ver s
  refine ⟨assembleWord_eq_ofNat 7#4 ver, exec_failed_p rfl rfl, fun hlive => exec_pfinv_above hlive, fun hlive hver => ?_⟩
  rw [exec_pfinv_le hlive hver, ← k_variantOfVersion]
  rfl

/-- Settles O25: the version is tested before the comparison. -/
theorem pvfyvEffect : Obligations.PvfyvEffect := by
  intro ver s
  rw [← k_variantOfVersion]
  refine ⟨assembleWord_eq_ofNat 8#4 ver, exec_failed_p rfl rfl, fun hlive => exec_pvfyv_above hlive, fun hlive hver heq => ?_,
    fun hlive hver hne => ?_⟩
  · rw [exec_pvfyv_le hlive hver, verify_of_eq heq]
    rfl
  · rw [exec_pvfyv_le hlive hver, verify_of_ne hne]
    rfl

/-- Settles O26: only version 0 is the version whose byte is 0. -/
theorem variantOfVersion_values : Obligations.VariantOfVersion := by
  refine ⟨fun ver => ⟨fun h => ?_, fun h _ => ?_⟩, rfl, rfl, rfl⟩
  · exact if_pos (BitVec.eq_of_toNat_eq h)
  · refine if_neg fun h' => ?_
    simp [h'] at h

end Sys2Proof.Machine
end

section
/-! PROOFS. Streams of the P-unit (R79): a list of commands that feed symbols leaves the fold over the symbols, and any
list of the commands R79 allows leaves the polymod of what it fed. -/

namespace Sys2Proof.Machine

/-! ### One command of a stream -/

section
variable {i : Instr} {s t : State}

/-- A feeding command takes one polymod step (R71 to R73). -/
theorem exec_of_fedSym {v : Sym} (hfed : fedSym i = some v) (hi : inPolymodStream i = true) (hlive : s.pfail = false) :
    exec i s = .next (stepChk v s) := by
  cases i with
  | psym w =>
    cases hfed
    exact exec_psym_le hlive (of_decide_eq_true hi)
  | phrph c =>
    cases hfed
    exact exec_phrph_live hlive c
  | phrpl c =>
    cases hfed
    exact exec_phrpl_live hlive c
  | _ => cases hfed

theorem verify_cases (k : Variant) (s : State) :
    verify k s = respondOk s ∨ verify k s = raiseFailure .p .checksum s := by
  by_cases h : s.chk = s.cfg.k k
  · exact .inl (verify_of_eq h)
  · exact .inr (verify_of_ne h)

/-- A finishing command keeps the P-unit's registers or raises a failure (R74 to R77). -/
theorem exec_finishing_cases (hi : finishing i = true) (hlive : s.pfail = false) (ht : exec i s = .next t) :
    s.sameP t ∨ ∃ c, c ≠ .ok ∧ t = raiseFailure .p c s := by
  have hverify : ∀ k, t = verify k s → s.sameP t ∨ ∃ c, c ≠ .ok ∧ t = raiseFailure .p c s := by
    rintro k rfl
    rcases verify_cases k s with h | h
    · exact .inl (h ▸ sameP_refl s)
    · exact .inr ⟨_, by decide, h⟩
  cases i with
  | pfin k =>
    rw [exec_pfin_live hlive] at ht
    cases ht
    exact .inl (sameP_refl s)
  | pvfy k =>
    rw [exec_pvfy_live hlive] at ht
    exact hverify k (Host.Outcome.next.inj ht).symm
  | pfinv ver =>
    rcases Nat.lt_or_ge s.cfg.versionMax ver.toNat with hver | hver
    · rw [exec_pfinv_above hlive hver] at ht
      exact .inr ⟨_, by decide, (Host.Outcome.next.inj ht).symm⟩
    · rw [exec_pfinv_le hlive hver] at ht
      cases ht
      exact .inl (sameP_refl s)
  | pvfyv ver =>
    rcases Nat.lt_or_ge s.cfg.versionMax ver.toNat with hver | hver
    · rw [exec_pvfyv_above hlive hver] at ht
      exact .inr ⟨_, by decide, (Host.Outcome.next.inj ht).symm⟩
    · rw [exec_pvfyv_le hlive hver] at ht
      exact hverify _ (Host.Outcome.next.inj ht).symm
  | _ => cases hi

/-- A command of a stream that feeds nothing and does not fail keeps the P-unit's registers. -/
theorem sameP_of_not_feeding {r : Response} (hfed : fedSym i = none) (hi : inPolymodStream i = true)
    (hlive : s.pfail = false) (ht : exec i s = .next t) (hr : t.output = s.output ++ [r])
    (hok : finishing i = true → r.cause = .ok) : s.sameP t := by
  by_cases hfin : finishing i = true
  · rcases exec_finishing_cases hfin hlive ht with hsame | ⟨c, hc, rfl⟩
    · exact hsame
    · obtain rfl : (⟨c, 0#2, 0#30⟩ : Response) = r := by simpa using hr
      exact absurd (hok hfin) hc
  · rcases hunit : unitOf i with _ | _ | _
    · obtain ⟨c, d, hexec⟩ := exec_of_unitOf_none hunit s
      cases hexec.symm.trans ht
      exact sameP_refl s
    · cases i with
      | pinit => cases hi
      | psym v | phrph c | phrpl c => cases hfed
      | pfin k | pvfy k | pfinv ver | pvfyv ver => exact absurd rfl hfin
      | _ => cases hunit
    · exact sameOther_of_exec hunit ht

/-- A command of a stream folds in the symbol it feeds, if it feeds one. -/
theorem exec_of_inPolymodStream {r : Response} (hi : inPolymodStream i = true) (hlive : s.pfail = false)
    (ht : exec i s = .next t) (hr : t.output = s.output ++ [r]) (hok : finishing i = true → r.cause = .ok) :
    t.pfail = false ∧ t.chk = polymodFold s.cfg s.chk (fedSym i).toList := by
  rcases hfed : fedSym i with _ | v
  · obtain ⟨hchk, hfail, -⟩ := sameP_of_not_feeding hfed hi hlive ht hr hok
    exact ⟨hfail ▸ hlive, hchk.symm⟩
  · rw [exec_of_fedSym hfed hi hlive] at ht
    cases ht
    exact ⟨hlive, rfl⟩

end

/-! ### Every stream -/

/-- A run of commands of a stream: it ends, with a response each, and from a P-unit that is not failed it leaves the fold
over what was fed if every finishing command succeeded. -/
theorem runAll_of_inPolymodStream {is : List Instr} {s : State} (hin : s.input = eventsOf is)
    (his : ∀ i ∈ is, i.wf = true ∧ inPolymodStream i = true) :
    ∃ (t : State) (rs : List Response), runAll s = .next t ∧ t.output = s.output ++ rs ∧ rs.length = is.length ∧
      (s.pfail = false → (∀ p ∈ is.zip rs, finishing p.1 = true → p.2.cause = .ok) →
        t.pfail = false ∧ t.chk = polymodFold s.cfg s.chk (is.filterMap fedSym)) := by
  induction is generalizing s with
  | nil => exact ⟨s, [], by rw [runAll, hin]; rfl, by simp, rfl, fun hlive _ => ⟨hlive, rfl⟩⟩
  | cons i is ih =>
    obtain ⟨⟨hwf, hi⟩, his⟩ := List.forall_mem_cons.1 his
    obtain ⟨u, r, hu, hcfg, hinput, hr⟩ := exec_cases i { s with input := eventsOf is }
    obtain ⟨t, rs, hrun, hout, hlength, hfold⟩ := ih hinput his
    refine ⟨t, r :: rs, (runAll_command hin hwf hu).trans hrun, by simp [hout, hr], by simp [hlength], ?_⟩
    intro hlive hok
    obtain ⟨hfirst, hok⟩ := List.forall_mem_cons.1 hok
    obtain ⟨hlive', hchk⟩ := exec_of_inPolymodStream (s := { s with input := eventsOf is }) hi hlive hu hr hfirst
    have hfed : (i :: is).filterMap fedSym = (fedSym i).toList ++ is.filterMap fedSym := by
      rcases h : fedSym i <;> simp [h]
    rw [hfed, polymodFold_append, ← hchk, ← hcfg]
    exact hfold hlive' hok

/-- Settles O46: the fold from `CHK_INIT` is the polymod. -/
theorem polymodStream : Obligations.PolymodStream := by
  intro is s hlive hchk hin his
  obtain ⟨t, rs, hrun, hout, hlength, hfold⟩ := runAll_of_inPolymodStream hin his
  refine ⟨t, rs, hrun, hout, hlength, fun hok => ?_⟩
  rw [polymod, ← hchk]
  exact hfold hlive hok

/-! ### Feeding a list of symbols -/

/-- The commands `is` feed the symbols `vs`, one each, and cannot fail. -/
abbrev Feeds : List Instr → List Sym → Prop :=
  List.Forall₂ fun i v => fedSym i = some v ∧ inPolymodStream i = true

/-- What feeding the symbols `vs` leaves of a state whose P-unit is not failed. -/
def feedAll (vs : List Sym) (s : State) : State := vs.foldl (fun t v => stepChk v t) s

theorem feedAll_eq (vs : List Sym) (s : State) :
    feedAll vs s = { s with chk := polymodFold s.cfg s.chk vs,
                            output := s.output ++ List.replicate vs.length ⟨.ok, 0#2, 0#30⟩ } := by
  induction vs generalizing s with
  | nil => simp [feedAll, polymodFold]
  | cons v vs ih =>
    rw [feedAll, List.foldl_cons, ← feedAll, ih]
    simp [polymodFold, List.replicate_succ]

theorem Feeds.append {is js : List Instr} {vs ws : List Sym} (h : Feeds is vs) (h' : Feeds js ws) :
    Feeds (is ++ js) (vs ++ ws) :=
  List.rel_append h h'

/-- One feeding command for each operand. -/
theorem feeds_map {α : Type} {f : α → Instr} {g : α → Sym} {l : List α}
    (h : ∀ x ∈ l, fedSym (f x) = some (g x) ∧ inPolymodStream (f x) = true) : Feeds (l.map f) (l.map g) := by
  rw [Feeds, List.forall₂_map_left_iff, List.forall₂_map_right_iff]
  exact List.forall₂_same.2 h

/-- `PHRP` feeds the expansion (R112). -/
theorem feeds_pHrp (h : List Byte) : Feeds (pHrp h) (hrpExpand h) :=
  ((feeds_map fun _ _ => ⟨rfl, rfl⟩).append (.cons ⟨rfl, rfl⟩ .nil)).append (feeds_map fun _ _ => ⟨rfl, rfl⟩)

/-- `PDATA` of values in range feeds them (R113). -/
theorem feeds_pData {vs : List Byte} (h : ∀ v ∈ vs, v.toNat ≤ 31) : Feeds (pData vs) (vs.map lowSym) :=
  feeds_map fun v hv => ⟨rfl, decide_eq_true (h v hv)⟩

/-- `PZERO6` feeds the six zeros (R111). -/
theorem feeds_pZero6 : Feeds pZero6 sixZeros := feeds_pData (vs := List.replicate 6 0#8) (by decide)

theorem Feeds.filterMap {is : List Instr} {vs : List Sym} (h : Feeds is vs) : is.filterMap fedSym = vs := by
  induction h with
  | nil => rfl
  | cons hi _ ih => rw [List.filterMap_cons_some hi.1, ih]

/-- A run of feeding commands, and then of whatever is presented after them. -/
theorem runAll_of_feeds {is rest : List Instr} {vs : List Sym} {s : State} (h : Feeds is vs) (hlive : s.pfail = false)
    (hin : s.input = eventsOf (is ++ rest)) : runAll s = runAll (feedAll vs { s with input := eventsOf rest }) := by
  induction h generalizing s with
  | nil =>
    rw [feedAll, List.foldl_nil, ← List.nil_append rest, ← hin]
  | @cons i v is vs hi _ ih =>
    have hwf : i.wf = true := by
      cases i with
      | rdreg n => cases hi.1
      | _ => rfl
    have hexec := exec_of_fedSym (s := { s with input := eventsOf (is ++ rest) }) hi.1 hi.2 hlive
    rw [runAll_command hin hwf hexec]
    exact ih (s := stepChk v { s with input := eventsOf (is ++ rest) }) hlive rfl

theorem pHrp_length (h : List Byte) : (pHrp h).length = 2 * h.length + 1 := by
  simp [pHrp, pSep]
  omega

theorem hrpExpand_length (h : List Byte) : (hrpExpand h).length = 2 * h.length + 1 :=
  (feeds_pHrp h).length_eq.symm.trans (pHrp_length h)

/-- Settles O47: a command for each symbol of the expansion, and no other. -/
theorem phrpFeedsExpansion : Obligations.PhrpFeedsExpansion := by
  refine fun h s => ⟨pHrp_length h, (feeds_pHrp h).filterMap, rfl, fun hlive hin => ?_⟩
  rw [runAll_of_feeds (rest := []) (feeds_pHrp h) hlive (by rwa [List.append_nil]), feedAll_eq, hrpExpand_length]
  rfl

end Sys2Proof.Machine
end

section
/-! PROOFS. The sequences that create and verify a checksum (R114, R115): a stream from any state, and the command that
ends it. -/

namespace Sys2Proof.Machine

/-! ### A stream from any state -/

/-- `u` is what `s` becomes when a stream is started and the symbols `vs` are fed; the run of `s` goes on from there with
the commands `rest`. -/
structure StreamFed (s : State) (vs : List Sym) (rest : List Instr) (u : State) : Prop where
  run : runAll s = runAll { u with input := eventsOf rest }
  input : u.input = []
  cfg : u.cfg = s.cfg
  live : u.pfail = false
  chk : u.chk = polymod s.cfg vs
  output : u.output = s.output ++ List.replicate (vs.length + 1) ⟨.ok, 0#2, 0#30⟩

section
variable {is rest : List Instr} {vs : List Sym} {s t u : State}

/-- `PINIT` starts a stream from any state (R70), and the feeding commands after it are answered `OK`. -/
theorem exists_streamFed (h : Feeds is vs) (hin : s.input = eventsOf (.pinit :: is ++ rest)) :
    ∃ u, StreamFed s vs rest u := by
  have hrun := (runAll_command (i := .pinit) (is := is ++ rest) hin rfl rfl).trans (runAll_of_feeds h rfl rfl)
  refine ⟨feedAll vs (respondOk (clearFailure .p { s with chk := s.cfg.chkInit, input := [] })), ?_⟩
  rw [feedAll_eq] at hrun ⊢
  exact ⟨hrun, rfl, rfl, rfl, rfl, by simp [List.replicate_succ]⟩

/-- The run of a stream ends with its last command. -/
theorem StreamFed.last {i : Instr} (h : StreamFed s vs [i] u) (hwf : i.wf = true)
    (ht : exec i u = .next t) : runAll s = .next t := by
  have hu : { u with input := eventsOf [] } = u := congrArg (fun l => { u with input := l }) h.input.symm
  rw [h.run, runAll_command rfl hwf (hu ▸ ht), runAll, (exec_keeps_port ht).2, h.input]
  rfl

/-- After a failure every P-unit data command answers `FAILED` and the failure stays recorded (R158). -/
theorem runAll_failed_p (his : ∀ i ∈ is, i.wf = true ∧ unitOf i = some .p ∧ skipsFailedTest i = false)
    (hin : s.input = eventsOf is) (hfail : s.pfail = true) :
    ∃ t, runAll s = .next t ∧ t.output = s.output ++ List.replicate is.length ⟨.failed, 0#2, 0#30⟩ ∧
      t.pcause = s.pcause := by
  induction is generalizing s with
  | nil => exact ⟨s, by rw [runAll, hin]; rfl, by simp, rfl⟩
  | cons i is ih =>
    obtain ⟨⟨hwf, hi, hskip⟩, his⟩ := List.forall_mem_cons.1 his
    obtain ⟨t, ht, hout, hcause⟩ := ih (s := respond .failed 0#2 0#30 { s with input := eventsOf is }) his rfl hfail
    exact ⟨t, (runAll_command hin hwf (exec_failed_p hi hskip hfail)).trans ht,
      by simp [hout, List.replicate_succ], hcause⟩

/-- A value out of range fails a stream with `SYM_RANGE`, and the data commands after it are answered `FAILED`. -/
theorem StreamFed.above {b : Byte} (h : StreamFed s vs (.psym b :: is) u) (hb : 31 < b.toNat)
    (his : ∀ i ∈ is, i.wf = true ∧ unitOf i = some .p ∧ skipsFailedTest i = false) :
    ∃ t, runAll s = .next t ∧
      t.output = u.output ++ [⟨.symRange, 0#2, 0#30⟩] ++ List.replicate is.length ⟨.failed, 0#2, 0#30⟩ ∧
      t.pcause = 2#4 := by
  have hexec := exec_psym_above (s := { u with input := eventsOf is }) h.live hb
  have hfirst := runAll_command (s := { u with input := eventsOf (.psym b :: is) }) rfl rfl hexec
  obtain ⟨t, ht, hout, hcause⟩ :=
    runAll_failed_p (s := raiseFailure .p .symRange { u with input := eventsOf is }) his rfl rfl
  exact ⟨t, h.run.trans (hfirst.trans ht), hout, hcause⟩

end

/-! ### Creating a checksum -/

theorem symByte_toNat_le (v : Sym) : (symByte v).toNat ≤ 31 := by
  have hv := v.isLt
  rw [symByte_toNat]
  omega

theorem feeds_pData_symByte (d : List Sym) : Feeds (pData (d.map symByte)) d := by
  have h := feeds_pData (vs := d.map symByte) (List.forall_mem_map.2 fun v _ => symByte_toNat_le v)
  rwa [List.map_map, show lowSym ∘ symByte = id from funext lowSym_symByte, List.map_id] at h

theorem createWith_length (h d : List Byte) (fin : Instr) :
    (createWith h d fin).length = 2 * h.length + d.length + 9 := by
  simp [createWith, pHrp_length, pData, pZero6]
  omega

section
variable {h : List Byte} {d : List Sym} {s t : State} {fin : Instr}

/-- The stream of a creation is that of R64. -/
theorem exists_created (hin : s.input = eventsOf (createWith h (d.map symByte) fin)) :
    ∃ u, StreamFed s (hrpExpand h ++ d ++ sixZeros) [fin] u :=
  exists_streamFed (((feeds_pHrp h).append (feeds_pData_symByte d)).append feeds_pZero6) hin

/-- The responses of a creation: `OK` for what is fed, then the finishing command's. -/
theorem StreamFed.created_output {u : State} {r : Response}
    (hu : StreamFed s (hrpExpand h ++ d ++ sixZeros) [fin] u) (ht : t.output = u.output ++ [r]) :
    t.output = s.output ++ List.replicate (2 * h.length + d.length + 8) ⟨.ok, 0#2, 0#30⟩ ++ [r] := by
  have hlength : (hrpExpand h ++ d ++ sixZeros).length + 1 = 2 * h.length + d.length + 8 := by
    simp [hrpExpand_length, sixZeros]
    omega
  rw [ht, hu.output, hlength]

end

/-- Settles O48: the finishing command finds the polymod of R64 in `CHK`. -/
theorem createSequence : Obligations.CreateSequence := by
  refine fun h d s => ⟨fun k hin => ⟨?_, ?_⟩, fun ver hin => ?_⟩
  · simp [hin, eventsOf, createSeq, createWith_length]
  · obtain ⟨u, hu⟩ := exists_created hin
    refine ⟨_, hu.last rfl (exec_pfin_live hu.live k), hu.created_output ?_⟩
    rw [finish_output, hu.chk, hu.cfg, checksumValue]
  · obtain ⟨u, hu⟩ := exists_created hin
    rw [← hu.cfg]
    by_cases hver : u.cfg.versionMax < ver.toNat
    · rw [if_pos hver]
      exact ⟨_, hu.last rfl (exec_pfinv_above hu.live hver), hu.created_output rfl⟩
    · refine ⟨_, hu.last rfl (exec_pfinv_le hu.live (Nat.not_lt.1 hver)), hu.created_output ?_⟩
      rw [if_neg hver, finish_output, hu.chk, hu.cfg, checksumValue]

/-! ### Verifying a checksum -/

theorem verify_output (k : Variant) (s : State) :
    (verify k s).output = s.output ++ [⟨if s.chk = s.cfg.k k then .ok else .checksum, 0#2, 0#30⟩] := by
  by_cases h : s.chk = s.cfg.k k
  · rw [verify_of_eq h, if_pos h, respondOk_output]
  · rw [verify_of_ne h, if_neg h, raiseFailure_p_output]

theorem verifyWith_length (h dc : List Byte) (vfy : Instr) :
    (verifyWith h dc vfy).length = 2 * h.length + dc.length + 3 := by
  simp [verifyWith, pHrp_length, pData]
  omega

section
variable {h dc : List Byte} {s : State} {vfy : Instr}

/-- A value out of range fails the stream with `SYM_RANGE`, and the verifying command answers `FAILED`. -/
theorem runAll_verifyWith_above (hvfy : vfy.wf = true ∧ unitOf vfy = some .p ∧ skipsFailedTest vfy = false)
    (hin : s.input = eventsOf (verifyWith h dc vfy)) (habove : dc.any (fun v => decide (31 < v.toNat)) = true) :
    ∃ t, runAll s = .next t ∧ t.output.getLast? = some ⟨.failed, 0#2, 0#30⟩ ∧ t.pcause = 2#4 := by
  obtain ⟨b, hfind⟩ := Option.isSome_iff_exists.1 (List.find?_isSome.2 (List.any_eq_true.1 habove))
  obtain ⟨hb, good, tail, rfl, hgood⟩ := List.find?_eq_some_iff_append.1 hfind
  have hfeeds := (feeds_pHrp h).append (feeds_pData (vs := good) fun v hv => by simpa using hgood v hv)
  obtain ⟨u, hu⟩ := exists_streamFed (s := s) (rest := .psym b :: (pData tail ++ [vfy])) hfeeds
    (by simp [hin, verifyWith, pData])
  have hdata : ∀ i ∈ pData tail ++ [vfy], i.wf = true ∧ unitOf i = some .p ∧ skipsFailedTest i = false := by
    simp only [pData, List.mem_append, List.mem_map, List.mem_singleton]
    rintro i (⟨v, -, rfl⟩ | rfl)
    · exact ⟨rfl, rfl, rfl⟩
    · exact hvfy
  obtain ⟨t, ht, hout, hcause⟩ := hu.above (of_decide_eq_true hb) hdata
  refine ⟨t, ht, ?_, hcause⟩
  rw [hout, List.length_append, List.length_singleton, List.replicate_succ', ← List.append_assoc, List.getLast?_concat]

/-- With values in range the verifying command finds the polymod of R65 in `CHK`. -/
theorem exists_verified (hin : s.input = eventsOf (verifyWith h dc vfy))
    (hrange : ¬ dc.any (fun v => decide (31 < v.toNat)) = true) :
    ∃ u, StreamFed s (hrpExpand h ++ dc.map lowSym) [vfy] u := by
  have hle : ∀ v ∈ dc, v.toNat ≤ 31 := by simpa using hrange
  exact exists_streamFed ((feeds_pHrp h).append (feeds_pData hle)) hin

/-- The comparison of R75 is that of R65. -/
theorem StreamFed.verify_output {u : State} (hu : StreamFed s (hrpExpand h ++ dc.map lowSym) [vfy] u) (k : Variant) :
    (verify k u).output.getLast? =
      some ⟨if checksumVerify s.cfg h (dc.map lowSym) k then .ok else .checksum, 0#2, 0#30⟩ := by
  simp [Machine.verify_output, hu.chk, hu.cfg, checksumVerify]

end

/-- Settles O49: with the values in range, the verifying command decides. -/
theorem verifySequence : Obligations.VerifySequence := by
  refine fun h dc s => ⟨fun k hin => ⟨?_, ?_⟩, fun ver hin => ?_⟩
  · simp [hin, eventsOf, verifySeq, verifyWith_length]
  · by_cases habove : dc.any (fun v => decide (31 < v.toNat)) = true
    · obtain ⟨t, ht, hlast, hcause⟩ := runAll_verifyWith_above ⟨rfl, rfl, rfl⟩ hin habove
      exact ⟨t, _, ht, hlast, (if_pos habove).symm, fun _ => hcause⟩
    · obtain ⟨u, hu⟩ := exists_verified hin habove
      exact ⟨_, _, hu.last rfl (exec_pvfy_live hu.live k), hu.verify_output k, (if_neg habove).symm,
        fun h => absurd h habove⟩
  · by_cases habove : dc.any (fun v => decide (31 < v.toNat)) = true
    · obtain ⟨t, ht, hlast, -⟩ := runAll_verifyWith_above ⟨rfl, rfl, rfl⟩ hin habove
      exact ⟨t, _, ht, hlast, (if_pos habove).symm⟩
    · obtain ⟨u, hu⟩ := exists_verified hin habove
      rw [if_neg habove, ← hu.cfg]
      by_cases hver : u.cfg.versionMax < ver.toNat
      · exact ⟨_, _, hu.last rfl (exec_pvfyv_above hu.live hver), List.getLast?_concat, (if_pos hver).symm⟩
      · refine ⟨_, _, hu.last rfl (exec_pvfyv_le hu.live (Nat.not_lt.1 hver)), hu.verify_output _, ?_⟩
        rw [if_neg hver, hu.cfg]

end Sys2Proof.Machine
end

section
/-! PROOFS. The effects of the R-unit's commands (R88 to R92): each branch in the numbers of the rules, where the
invariant of R24 keeps `ACC` below `2^BITS`. -/

namespace Sys2Proof.Machine

/-! ### The operations in numbers -/

theorem joinBits_eq (acc : Nat) {w v : Nat} (h : v < 2 ^ w) : joinBits acc w v = acc * 2 ^ w + v :=
  shiftLeft_or_eq _ _ _ h

theorem setResidual_eq (t n : Nat) (s : State) :
    setResidual t n s = { s with acc := BitVec.ofNat 7 (t % 2 ^ n), bits := BitVec.ofNat 3 n } := by
  rw [setResidual, Nat.and_two_pow_sub_one_eq_mod]

section
variable {t n w hi : Nat}

theorem div_two_pow_lt (h : t < 2 ^ (n + w)) : t / 2 ^ n < 2 ^ w :=
  Nat.div_lt_of_lt_mul (by rwa [← pow_add])

/-- The first `w` of `n + w` bits need no mask. -/
theorem sliceNat_top (hhi : hi + 1 = n + w) (h : t < 2 ^ (n + w)) : sliceNat t hi n = t / 2 ^ n := by
  have hwidth : hi + 1 - n = w := by omega
  rw [sliceNat_eq, hwidth, Nat.mod_eq_of_lt (div_two_pow_lt h)]

/-- One output unit, the first `w` of `n + w` bits. -/
theorem packOne_top (hhi : hi + 1 = n + w) (hw : w ≤ 8) (h : t < 2 ^ (n + w)) :
    packOne (outUnit (sliceNat t hi n)) = BitVec.ofNat 30 (t / 2 ^ n) := by
  rw [sliceNat_top hhi h]
  exact packOne_eq _ ((div_two_pow_lt h).trans_le (Nat.pow_le_pow_right (by decide) hw))

/-- Two output units, the first two symbols of `n + 10` bits. -/
theorem packTwo_top (h : t < 2 ^ (n + 10)) :
    packTwo (outUnit (sliceNat t (n + 9) (n + 5))) (outUnit (sliceNat t (n + 4) n)) =
      BitVec.ofNat 30 (t / 2 ^ n % 32 * 256 + t / 2 ^ (n + 5)) := by
  have hfirst : t / 2 ^ (n + 5) < 2 ^ 5 := div_two_pow_lt h
  have hwidth : n + 4 + 1 - n = 5 := by omega
  rw [sliceNat_top (w := 5) rfl h, sliceNat_eq, hwidth]
  exact packTwo_eq _ _ (by omega) (by omega)

end

/-! ### The obligations -/

/-- Settles O27: an operand above 1 is no direction. -/
theorem rinitEffect : Obligations.RinitEffect := fun _ s =>
  ⟨rfl, rfl, rfl, fun _ _ _ => executeWord_of_operand_above_one (.inr (.inr (by omega))) (by omega) s⟩

/-- Settles O28: the residual and the byte are below `2^(BITS + 8)`, so the first symbol needs no mask. -/
theorem rpushByteEffect : Obligations.RpushByteEffect := by
  intro v s
  refine ⟨assembleWord_eq_ofNat 0xA#4 v, exec_failed_r rfl rfl, fun hlive hd hacc h4 => ?_⟩
  have hjoin := joinBits_eq s.acc.toNat v.isLt
  have hlt := joinBits_lt hacc v.isLt
  refine ⟨fun h => ?_, fun h => ?_⟩
  · obtain ⟨n, hn⟩ : ∃ n, s.bits.toNat = n + 2 := ⟨s.bits.toNat - 2, by omega⟩
    have hmod : (n + 2 + 8) % 5 = n := by omega
    rw [hn] at hlt
    rw [exec_rpush_byte hlive hd, pushByte_of_two_le h, hn, Nat.add_sub_cancel, packTwo_top hlt, setResidual_eq, hjoin, hmod]
    rfl
  · have hmod : (s.bits.toNat + 8) % 5 = s.bits.toNat + 3 := by omega
    rw [exec_rpush_byte hlive hd, pushByte_of_lt_two h,
      packOne_top (n := s.bits.toNat + 3) (w := 5) rfl (by decide) hlt, setResidual_eq, hjoin, hmod]
    rfl

/-- Settles O29: the residual and the symbol are below `2^(BITS + 5)`, so neither the byte nor a residual without a byte
needs a mask. -/
theorem rpushSymEffect : Obligations.RpushSymEffect := by
  intro v s
  refine ⟨assembleWord_eq_ofNat 0xA#4 v, exec_failed_r rfl rfl,
    fun hlive hd hv => exec_rpush_above hlive hd (decide_eq_true hv), fun hlive hd hv hacc => ?_⟩
  have hsym : (lowSym v).toNat = v.toNat := by rw [lowSym_toNat, Nat.mod_eq_of_lt (Nat.lt_succ_of_le hv)]
  have hexec := exec_rpush_sym hlive hd (decide_eq_false (Nat.not_lt.2 hv))
  have hjoin := joinBits_eq s.acc.toNat (lowSym v).isLt
  have hlt := joinBits_lt hacc (lowSym v).isLt
  have hbits := s.bits.isLt
  refine ⟨fun h => ?_, fun h => ?_⟩
  · obtain ⟨n, hn⟩ : ∃ n, s.bits.toNat = n + 3 := ⟨s.bits.toNat - 3, by omega⟩
    have hmod : (n + 3 + 5) % 8 = n := by omega
    rw [hn] at hlt
    rw [hexec, pushSym_of_three_le h, hn, Nat.add_sub_cancel, packOne_top (w := 8) rfl (by decide) hlt,
      setResidual_eq, hjoin, hsym, hmod]
    rfl
  · have hmod : (s.bits.toNat + 5) % 8 = s.bits.toNat + 5 := by omega
    rw [hexec, pushSym_of_lt_three h, setResidual_eq, Nat.mod_eq_of_lt hlt, hjoin, hsym, hmod]
    rfl

/-- Settles O30: the residual bits are fewer than five, so they fit in one symbol with zeros below them (R93). -/
theorem rflushSymEffect : Obligations.RflushSymEffect := by
  intro s
  refine ⟨rfl, exec_failed_r rfl rfl, fun hlive hd hacc h4 => ⟨fun hpos => ?_, fun hzero => ?_⟩⟩
  · have hlt : s.acc.toNat * 2 ^ (5 - s.bits.toNat) < 32 :=
      calc s.acc.toNat * 2 ^ (5 - s.bits.toNat) < 2 ^ s.bits.toNat * 2 ^ (5 - s.bits.toNat) :=
            Nat.mul_lt_mul_of_pos_right hacc (Nat.two_pow_pos _)
        _ = 32 := by rw [← pow_add, Nat.add_sub_cancel' (by omega)]; rfl
    rw [exec_rflush_syms hlive hd, flushSyms, if_pos hpos, Nat.shiftLeft_eq, Nat.and_two_pow_sub_one_eq_mod _ 5,
      Nat.mod_eq_of_lt hlt, packOne_eq _ (hlt.trans (by decide))]
    rfl
  · rw [exec_rflush_syms hlive hd, flushSyms, if_neg (by omega)]
    rfl

/-- Settles O31: the checks of R92 in their order. -/
theorem rflushByteEffect : Obligations.RflushByteEffect := by
  intro s
  have hzero : s.acc ≠ 0#7 ↔ s.acc.toNat ≠ 0 := BitVec.toNat_inj.ne.symm
  have hfew (h : s.cfg.strictPad = false ∨ s.bits.toNat < 5) :
      ¬(s.cfg.strictPad && decide (5 ≤ s.bits.toNat)) = true := by
    rcases h with h | h <;> simp [h]
  refine ⟨rfl, exec_failed_r rfl rfl, fun hlive hd hstrict hbits => ?_, fun hlive hd hpad hacc => ?_,
    fun hlive hd hpad hacc => ?_⟩
  · rw [exec_rflush_bytes hlive hd, flushBytes, if_pos (by simp [hstrict, hbits])]
    rfl
  · rw [exec_rflush_bytes hlive hd, flushBytes, if_neg (hfew hpad), if_pos (hzero.2 hacc)]
    rfl
  · rw [exec_rflush_bytes hlive hd, flushBytes, if_neg (hfew hpad), if_neg (mt hzero.1 (not_not.2 hacc))]
    rfl

end Sys2Proof.Machine
end

section
/-! PROOFS. Bit strings (R33): the low bits of a number as a bit string, how bit strings of words come apart
again. -/

namespace Sys2Proof.Machine

/-! ### The low bits of a number -/

/-- The low `n` bits of a number, most significant bit first (R33). -/
def lowBits (n v : Nat) : List Bool := bitString (BitVec.ofNat n v)

@[simp] theorem bitString_ofNat (n v : Nat) : bitString (BitVec.ofNat n v) = lowBits n v := rfl

theorem bitString_eq_lowBits {w : Nat} (v : BitVec w) : bitString v = lowBits w v.toNat := by
  rw [lowBits, BitVec.ofNat_toNat, BitVec.setWidth_eq]

@[simp] theorem length_bitString {w : Nat} (v : BitVec w) : (bitString v).length = w := by simp [bitString]

@[simp] theorem length_lowBits (n v : Nat) : (lowBits n v).length = n := length_bitString _

theorem bitString_append {n m : Nat} (x : BitVec n) (y : BitVec m) : bitString (x ++ y) = bitString x ++ bitString y := by
  rw [bitString, List.range_add, List.map_append, List.map_map]
  congr 1
  · refine List.map_congr_left fun i hi => ?_
    rw [BitVec.getMsbD_append, if_neg (Nat.not_le.2 (List.mem_range.1 hi))]
  · refine List.map_congr_left fun i _ => ?_
    rw [Function.comp_apply, BitVec.getMsbD_append, if_pos (Nat.le_add_right n i), Nat.add_sub_cancel_left]

/-- Cutting the low bits in two. -/
theorem lowBits_add (n m v : Nat) : lowBits (n + m) v = lowBits n (v >>> m) ++ lowBits m v := by
  rw [lowBits, lowBits, lowBits, ← bitString_append]
  congr 1
  apply BitVec.eq_of_toNat_eq
  rw [toNat_append_eq, BitVec.toNat_ofNat, BitVec.toNat_ofNat, BitVec.toNat_ofNat, Nat.add_comm n m, pow_add, Nat.mod_mul,
    Nat.shiftRight_eq_div_pow]
  ring

theorem lowBits_congr {n v v' : Nat} (h : v % 2 ^ n = v' % 2 ^ n) : lowBits n v = lowBits n v' :=
  congrArg bitString (BitVec.eq_of_toNat_eq (by simpa using h))

@[simp] theorem lowBits_mod (n v : Nat) : lowBits n (v % 2 ^ n) = lowBits n v := lowBits_congr (Nat.mod_mod ..)

@[simp] theorem lowBits_zero_right (n : Nat) : lowBits n 0 = List.replicate n false := by
  rw [List.eq_replicate_iff]
  simp [lowBits, bitString]

@[simp] theorem lowBits_zero_left (v : Nat) : lowBits 0 v = [] := rfl

/-- More bits behind a number's low bits. -/
theorem lowBits_joinBits (n acc : Nat) {w v : Nat} (h : v < 2 ^ w) :
    lowBits (n + w) (joinBits acc w v) = lowBits n acc ++ lowBits w v := by
  rw [lowBits_add, joinBits_eq acc h]
  congr 1
  · rw [Nat.shiftRight_eq_div_pow, Nat.add_comm, Nat.add_mul_div_right _ _ (Nat.two_pow_pos w), Nat.div_eq_of_lt h,
      Nat.zero_add]
  · exact lowBits_congr (Nat.mul_add_mod' ..)

/-! ### From a bit string back to words -/

theorem bitsToNat_concat (l : List Bool) (b : Bool) : bitsToNat (l ++ [b]) = 2 * bitsToNat l + b.toNat := by
  simp [bitsToNat]

theorem lowBits_one (v : Nat) : lowBits 1 v = [decide (v % 2 = 1)] := by
  simp [lowBits, bitString, BitVec.getMsbD, BitVec.getElem_eq_testBit_toNat]

theorem bitsToNat_lowBits (n v : Nat) : bitsToNat (lowBits n v) = v % 2 ^ n := by
  induction n generalizing v with
  | zero => simp [bitsToNat, Nat.mod_one]
  | succ n ih =>
    rw [lowBits_add, lowBits_one, bitsToNat_concat, ih, Nat.shiftRight_one, pow_succ', Nat.mod_mul]
    rcases Nat.mod_two_eq_zero_or_one v with h | h <;> rw [h] <;> exact Nat.add_comm ..

theorem ofNat_bitsToNat_bitString {w : Nat} (v : BitVec w) : BitVec.ofNat w (bitsToNat (bitString v)) = v := by
  rw [bitString_eq_lowBits, bitsToNat_lowBits, Nat.mod_eq_of_lt v.isLt, BitVec.ofNat_toNat, BitVec.setWidth_eq]

/-- A number of `n` bits is 0 when its bits are. -/
theorem lowBits_eq_zeros_iff {n v : Nat} (h : v < 2 ^ n) : lowBits n v = List.replicate n false ↔ v = 0 := by
  rw [← lowBits_zero_right]
  constructor
  · intro heq
    have hvalue := congrArg bitsToNat heq
    rwa [bitsToNat_lowBits, bitsToNat_lowBits, Nat.mod_eq_of_lt h, Nat.zero_mod] at hvalue
  · rintro rfl
    rfl

/-- The words `l` one after the other as one bit string (R85, R86). -/
def wordBits {w : Nat} (l : List (BitVec w)) : List Bool := l.flatMap bitString

section
variable {w : Nat} {l l' : List (BitVec w)} {rest rest' : List Bool}

@[simp] theorem wordBits_nil : wordBits ([] : List (BitVec w)) = [] := rfl

@[simp] theorem wordBits_cons (v : BitVec w) : wordBits (v :: l) = bitString v ++ wordBits l := rfl

@[simp] theorem wordBits_append : wordBits (l ++ l') = wordBits l ++ wordBits l' := List.flatMap_append

@[simp] theorem length_wordBits : (wordBits l).length = w * l.length := by
  induction l with
  | nil => rfl
  | cons v l ih => rw [wordBits_cons, List.length_append, ih, length_bitString, List.length_cons]; ring

/-- How many words two sides have that differ by zeros at the end. -/
theorem length_of_wordBits_eq {w' n : Nat} {l' : List (BitVec w')}
    (h : wordBits l = wordBits l' ++ List.replicate n false) : w * l.length = w' * l'.length + n := by
  simpa using congrArg List.length h

/-- Cutting a bit string of words, with a rest that is no whole word, gives the words back. -/
theorem cutGroups_wordBits (hrest : rest.length < w) {n : Nat} (hn : l.length ≤ n) :
    (cutGroups w n (wordBits l ++ rest)).map (fun g => BitVec.ofNat w (bitsToNat g)) = l := by
  induction l generalizing n with
  | nil =>
    cases n with
    | zero => rfl
    | succ n => rw [wordBits_nil, List.nil_append, cutGroups, if_neg (Nat.not_le.2 hrest), List.map_nil]
  | cons v l ih =>
    obtain ⟨n, rfl⟩ : ∃ k, n = k + 1 := ⟨n - 1, by simp at hn; omega⟩
    have hword : (bitString v).length = w := length_bitString v
    rw [wordBits_cons, List.append_assoc, cutGroups, if_pos (by simp), List.take_left' hword, List.drop_left' hword,
      List.map_cons, ofNat_bitsToNat_bitString, ih (Nat.le_of_succ_le_succ hn)]

/-- A bit string is in one way a list of words and a rest that is no whole word. -/
theorem wordBits_append_inj (hrest : rest.length < w) (hrest' : rest'.length < w)
    (h : wordBits l ++ rest = wordBits l' ++ rest') : l = l' ∧ rest = rest' := by
  have hwords : l = l' := by
    rw [← cutGroups_wordBits (l := l) hrest (Nat.le_max_left l.length l'.length), h,
      cutGroups_wordBits hrest' (Nat.le_max_right _ _)]
  subst hwords
  exact ⟨rfl, List.append_cancel_left h⟩

end

end Sys2Proof.Machine
end

section
/-! PROOFS. The laws of the regrouper (R85 to R87): each loop only moves bits from its input to its output and its
residual, so both conversions are told by the bit strings of their two sides. -/

namespace Sys2Proof.Machine

/-! ### The bits of an accumulator -/

/-- The bit string an accumulator stands for: the output, then the residual bits. -/
def Regroup.allBits {w : Nat} (g : Regroup (BitVec w)) : List Bool := wordBits g.out ++ lowBits g.bits g.acc

@[simp] theorem length_allBits {w : Nat} (g : Regroup (BitVec w)) : g.allBits.length = w * g.out.length + g.bits := by
  simp [Regroup.allBits]

/-- Moving the first `w` of `n + w` residual bits to the output moves no bit. -/
theorem allBits_emit {w : Nat} (n acc : Nat) (out : List (BitVec w)) :
    Regroup.allBits { acc := acc &&& (2 ^ n - 1), bits := n, out := out ++ [BitVec.ofNat w (acc >>> n)] } =
      wordBits out ++ lowBits (n + w) acc := by
  simp [Regroup.allBits, Nat.add_comm n w, lowBits_add]

/-! ### Bytes to symbols -/

theorem allBits_emitSyms (n : Nat) (g : Regroup Sym) : (emitSyms n g).allBits = g.allBits := by
  induction n generalizing g with
  | zero => rfl
  | succ n ih =>
    rcases Nat.lt_or_ge g.bits 5 with h | h
    · rw [emitSyms_of_lt h]
    · rw [emitSyms_of_le h, ih, allBits_emit, Nat.sub_add_cancel h]
      rfl

theorem emitSyms_bits_lt {n : Nat} {g : Regroup Sym} (h : g.bits < n + 5) : (emitSyms n g).bits < 5 := by
  induction n generalizing g with
  | zero => rwa [Nat.zero_add] at h
  | succ n ih =>
    rcases Nat.lt_or_ge g.bits 5 with hlt | hge
    · rwa [emitSyms_of_lt hlt]
    · rw [emitSyms_of_le hge]
      exact ih (by simp only; omega)

theorem allBits_takeByte (g : Regroup Sym) (b : Byte) : (takeByte g b).allBits = g.allBits ++ bitString b := by
  have hjoin : lowBits (g.bits + 8) (g.acc <<< 8 ||| b.toNat) = lowBits g.bits g.acc ++ bitString b := by
    rw [bitString_eq_lowBits]
    exact lowBits_joinBits g.bits g.acc b.isLt
  rw [takeByte, allBits_emitSyms, Regroup.allBits, Regroup.allBits, hjoin, List.append_assoc]

theorem takeByte_bits_lt (g : Regroup Sym) (b : Byte) : (takeByte g b).bits < 5 :=
  emitSyms_bits_lt (Nat.lt_add_of_pos_right (by decide))

/-- The loop of R85 moves the bits of the bytes in, and leaves at most four residual bits. -/
theorem foldl_takeByte (b : List Byte) {g : Regroup Sym} (h : g.bits < 5) :
    (b.foldl takeByte g).allBits = g.allBits ++ wordBits b ∧ (b.foldl takeByte g).bits < 5 := by
  induction b generalizing g with
  | nil => simp [h]
  | cons v b ih =>
    obtain ⟨hbits, hlt⟩ := ih (takeByte_bits_lt g v)
    exact ⟨by rw [List.foldl_cons, hbits, allBits_takeByte]; simp, hlt⟩

/-- The last, short group is the residual bits and zeros below them (R93). -/
theorem wordBits_lastSym {g : Regroup Sym} (h : g.bits < 5) :
    wordBits (lastSym g) = lowBits g.bits g.acc ++ List.replicate ((5 - g.bits) % 5) false := by
  unfold lastSym
  split
  case isTrue hpos =>
    have hjoin := lowBits_joinBits g.bits g.acc (Nat.two_pow_pos (5 - g.bits))
    rw [joinBits, Nat.or_zero, Nat.add_sub_cancel' h.le, lowBits_zero_right] at hjoin
    rw [wordBits_cons, wordBits_nil, List.append_nil, bitString_ofNat, hjoin, Nat.mod_eq_of_lt (by omega)]
  case isFalse hzero =>
    have hbits : g.bits = 0 := by omega
    simp [hbits]

/-- R85 in bits: the bits of the bytes, completed with zeros to a multiple of five. -/
theorem wordBits_regroup8to5 (b : List Byte) :
    wordBits (regroup8to5 b) = wordBits b ++ List.replicate ((5 - 8 * b.length % 5) % 5) false := by
  obtain ⟨hbits, hlt⟩ := foldl_takeByte b (g := { acc := 0, bits := 0, out := [] }) (by decide)
  have hlength := congrArg List.length hbits
  simp only [length_allBits, List.length_append, length_wordBits, List.length_nil] at hlength
  have hresidual : (b.foldl takeByte { acc := 0, bits := 0, out := [] }).bits = 8 * b.length % 5 := by omega
  rw [regroup8to5, wordBits_append, wordBits_lastSym hlt, ← List.append_assoc, ← Regroup.allBits, hbits, hresidual]
  rfl

/-- R87 (a), bytes to symbols. -/
theorem length_regroup8to5 (b : List Byte) : (regroup8to5 b).length = (8 * b.length + 4) / 5 := by
  have hlength := length_of_wordBits_eq (wordBits_regroup8to5 b)
  omega

/-! ### Symbols to bytes -/

/-- A symbol moves into the accumulator, which keeps fewer than eight residual bits and no other. -/
theorem takeSym_spec {g : Regroup Byte} (hbits : g.bits < 8) (hacc : g.acc < 2 ^ g.bits) (v : Sym) :
    (takeSym g v.toNat).allBits = g.allBits ++ bitString v ∧ (takeSym g v.toNat).bits < 8 ∧
      (takeSym g v.toNat).acc < 2 ^ (takeSym g v.toNat).bits := by
  have hjoin := lowBits_joinBits g.bits g.acc v.isLt
  rw [← bitString_eq_lowBits] at hjoin
  rcases Nat.lt_or_ge g.bits 3 with h | h
  · rw [takeSym_of_lt_three h]
    refine ⟨?_, by simp only; omega, joinBits_lt hacc v.isLt⟩
    rw [Regroup.allBits, Regroup.allBits, hjoin, List.append_assoc]
  · have hwidth : g.bits - 3 + 8 = g.bits + 5 := by omega
    rw [takeSym_of_three_le h]
    refine ⟨?_, by simp only; omega, ?_⟩
    · rw [allBits_emit, hwidth, hjoin, Regroup.allBits, List.append_assoc]
    · simp only [Nat.and_two_pow_sub_one_eq_mod]
      exact Nat.mod_lt _ (Nat.two_pow_pos _)

/-- The loop of R86 over symbols ends, has moved their bits in, and leaves fewer than eight residual bits. -/
theorem takeSyms_symByte (s : List Sym) {g : Regroup Byte} (hbits : g.bits < 8) (hacc : g.acc < 2 ^ g.bits) :
    ∃ g', takeSyms g (s.map symByte) = .ok g' ∧ g'.allBits = g.allBits ++ wordBits s ∧ g'.bits < 8 ∧
      g'.acc < 2 ^ g'.bits := by
  induction s generalizing g with
  | nil => exact ⟨g, rfl, by simp, hbits, hacc⟩
  | cons v s ih =>
    obtain ⟨hall, hbits', hacc'⟩ := takeSym_spec hbits hacc v
    obtain ⟨g', hok, hall', hend⟩ := ih hbits' hacc'
    refine ⟨g', ?_, by rw [hall', hall]; simp, hend⟩
    rw [List.map_cons, takeSyms, aboveSym_symByte, symByte_toNat]
    exact hok

/-- What the loop of R86 leaves of a list of symbols: their bits, cut in eights, and the residual. -/
theorem exists_takeSyms (s : List Sym) :
    ∃ g, takeSyms { acc := 0, bits := 0, out := [] } (s.map symByte) = .ok g ∧ wordBits s = g.allBits ∧
      g.bits = 5 * s.length % 8 ∧ g.acc < 2 ^ g.bits := by
  obtain ⟨g, hok, hall, hbits, hacc⟩ :=
    takeSyms_symByte s (g := { acc := 0, bits := 0, out := [] }) (by decide) (by decide)
  have hlength := congrArg List.length hall
  simp only [length_allBits, List.length_append, length_wordBits, List.length_nil] at hlength
  exact ⟨g, hok, by rw [hall]; rfl, by omega, hacc⟩

/-- The values of a loop of R86 that does not fail are symbols. -/
theorem exists_symByte_of_takeSyms {g g' : Regroup Byte} {x : List Byte} (h : takeSyms g x = .ok g') :
    ∃ s : List Sym, x = s.map symByte := by
  induction x generalizing g with
  | nil => exact ⟨[], rfl⟩
  | cons v x ih =>
    rw [takeSyms] at h
    split at h
    · cases h
    next hv =>
      obtain ⟨s, rfl⟩ := ih h
      have hsym : symByte (lowSym v) = v := by
        apply BitVec.eq_of_toNat_eq
        simp only [aboveSym, decide_eq_true_eq] at hv
        rw [symByte_toNat, lowSym_toNat]
        omega
      exact ⟨lowSym v :: s, by rw [List.map_cons, hsym]⟩

theorem exists_symByte_of_regroup5to8 {strict : Bool} {x o : List Byte} (h : regroup5to8 strict x = .ok o) :
    ∃ s : List Sym, x = s.map symByte := by
  rw [regroup5to8_eq_bind] at h
  rcases hloop : takeSyms { acc := 0, bits := 0, out := [] } x with e | g
  · rw [hloop] at h
    cases h
  · exact exists_symByte_of_takeSyms hloop

theorem closeBytes_eq_ok_iff {strict : Bool} {g : Regroup Byte} {o : List Byte} :
    closeBytes strict g = .ok o ↔ (strict = true → g.bits < 5) ∧ g.acc = 0 ∧ g.out = o := by
  have hpad : ¬(strict && decide (5 ≤ g.bits)) = true ↔ (strict = true → g.bits < 5) := by simp
  rw [← hpad, closeBytes]
  split_ifs with hexcess hacc
  · simp [hexcess]
  · simp [hacc]
  · simp [hexcess, not_ne_iff.1 hacc]

/-- R86 in bits: a conversion of symbols gives the bytes whose bits, with zeros for the bits left over, are those of the
symbols; under `STRICT_PAD` fewer than five are left over. -/
theorem regroup5to8_eq_ok_iff {strict : Bool} {s : List Sym} {o : List Byte} :
    regroup5to8 strict (s.map symByte) = .ok o ↔
      (strict = true → 5 * s.length % 8 < 5) ∧
        wordBits s = wordBits o ++ List.replicate (5 * s.length % 8) false := by
  obtain ⟨g, hloop, hall, hbits, hacc⟩ := exists_takeSyms s
  have hlt : g.bits < 8 := hbits ▸ Nat.mod_lt _ (by decide)
  rw [regroup5to8_eq_bind, hloop, Except.bind, closeBytes_eq_ok_iff, hall, ← hbits, Regroup.allBits]
  refine and_congr_right fun _ => ⟨?_, fun h => ?_⟩
  · rintro ⟨hzero, rfl⟩
    rw [hzero, lowBits_zero_right]
  · obtain ⟨hout, hresidual⟩ := wordBits_append_inj (by rwa [length_lowBits]) (by rwa [List.length_replicate]) h
    exact ⟨(lowBits_eq_zeros_iff hacc).1 hresidual, hout⟩

/-! ### The bit-string forms -/

/-- The completed bit string of R85 is that of the symbols, so its groups are the symbols. -/
theorem regroup8to5_eq_bits (b : List Byte) : regroup8to5 b = regroup8to5Bits b := by
  have hbits := wordBits_regroup8to5 b
  rw [← length_wordBits] at hbits
  rw [regroup8to5Bits, ← wordBits, ← hbits, ← List.append_nil (wordBits (regroup8to5 b))]
  refine (cutGroups_wordBits (by decide) ?_).symm
  rw [List.append_nil, length_wordBits]
  omega

/-- The bit string of R86 is that of the bytes and the residual, so its groups are the bytes and the residual is left
over. -/
theorem regroup5to8_eq_bits (s : List Sym) : regroup5to8 false (s.map symByte) = regroup5to8Bits s := by
  obtain ⟨g, hloop, hall, hbits, hacc⟩ := exists_takeSyms s
  have hlt : g.bits < 8 := hbits ▸ Nat.mod_lt _ (by decide)
  have hout : 8 * (g.allBits.length / 8) = (wordBits g.out).length := by
    rw [length_allBits, length_wordBits]
    omega
  have hdrop : g.allBits.drop (8 * (g.allBits.length / 8)) = lowBits g.bits g.acc := by
    rw [hout, Regroup.allBits, List.drop_left]
  have hzeros : (lowBits g.bits g.acc).all (fun b => !b) = true ↔ g.acc = 0 := by
    rw [← lowBits_eq_zeros_iff hacc, List.eq_replicate_iff]
    simp
  have hcut : (cutGroups 8 g.allBits.length g.allBits).map (fun g => BitVec.ofNat 8 (bitsToNat g)) = g.out :=
    cutGroups_wordBits (by rwa [length_lowBits]) (by rw [length_allBits]; omega)
  rw [regroup5to8_eq_bind, hloop, Except.bind, regroup5to8Bits, ← wordBits, hall]
  simp only [hdrop, hcut, hzeros, closeBytes, Bool.false_and, Bool.false_eq_true, if_false, ite_not]

/-! ### The obligations -/

/-- Settles O51: the zeros that complete the last symbol are the bits left over on the way back. -/
theorem regroupRoundTrip : Obligations.RegroupRoundTrip := by
  intro strict b
  have hbits := wordBits_regroup8to5 b
  have hfew : (5 - 8 * b.length % 5) % 5 < 5 := Nat.mod_lt _ (by decide)
  have hpad : 5 * (regroup8to5 b).length % 8 = (5 - 8 * b.length % 5) % 5 := by
    rw [length_of_wordBits_eq hbits, Nat.mul_add_mod, Nat.mod_eq_of_lt (hfew.trans (by decide))]
  rw [regroup5to8_eq_ok_iff, hpad]
  exact ⟨fun _ => hfew, hbits⟩

/-- A list of symbols is known by its bits. -/
theorem wordBits_sym_injective {s s' : List Sym} (h : wordBits s = wordBits s') : s = s' :=
  (wordBits_append_inj (rest := []) (rest' := []) (by decide) (by decide) (by rw [h])).1

/-- Settles O52: with fewer than five bits left over, the zeros that complete the last symbol are those bits; with five or
more, they are those bits without the last symbol's five, which are zeros. -/
theorem regroupOtherWay : Obligations.RegroupOtherWay := by
  intro strict s o h
  obtain ⟨hstrict, hs⟩ := regroup5to8_eq_ok_iff.1 h
  have ho := wordBits_regroup8to5 o
  have hlength := length_of_wordBits_eq hs
  refine ⟨fun hfew => ?_, fun hmany => ⟨?_, ?_⟩⟩
  · have hpad : (5 - 8 * o.length % 5) % 5 = 5 * s.length % 8 := by omega
    rw [hpad, ← hs] at ho
    exact wordBits_sym_injective ho
  · cases strict with
    | false => rfl
    | true => exact absurd (hstrict rfl) (Nat.not_lt.2 hmany)
  · obtain ⟨init, last, rfl⟩ : ∃ init last, s = init ++ [last] :=
      ⟨_, _, (List.dropLast_append_getLast (by rintro rfl; simp at hmany)).symm⟩
    have hpad : 5 * (init ++ [last]).length % 8 = (5 - 8 * o.length % 5) % 5 + 5 := by omega
    rw [hpad, List.replicate_add, ← List.append_assoc, ← ho, wordBits_append] at hs
    rw [List.dropLast_concat]
    exact wordBits_sym_injective (List.append_inj_left' hs (by simp)).symm

/-- Settles O53: the bit-string forms are the loops'. -/
theorem regroupBitStrings : Obligations.RegroupBitStrings := ⟨regroup8to5_eq_bits, regroup5to8_eq_bits⟩

/-- Settles O50: the words hold as many bits as the groups they come from, up to a part of a group. -/
theorem regroupLengths : Obligations.RegroupLengths := by
  refine ⟨length_regroup8to5, fun strict x o h => ?_⟩
  obtain ⟨s, rfl⟩ := exists_symByte_of_regroup5to8 h
  have hlength := length_of_wordBits_eq (regroup5to8_eq_ok_iff.1 h).2
  rw [List.length_map]
  omega

end Sys2Proof.Machine
end

section
/-! PROOFS. Streams of the R-unit (R98): other commands in between leave the R-unit as it is, so a stream ends as its
R-unit commands alone do; and `RINIT` brings a unit to the start of a loop from any state. -/

namespace Sys2Proof.Machine

/-! ### Other commands in between -/

section
variable {i : Instr} {is : List Instr} {rs : List Response} {r : Response} {s t u : State}

theorem regroupPart_cons_r (hi : unitOf i = some .r) : regroupPart (i :: is) = i :: regroupPart is := by
  simp [regroupPart, hi]

theorem regroupPart_cons_other (hi : unitOf i ≠ some .r) : regroupPart (i :: is) = regroupPart is := by
  simp [regroupPart, hi]

theorem regroupResponses_cons_r (hi : unitOf i = some .r) :
    regroupResponses (i :: is) (r :: rs) = r :: regroupResponses is rs := by
  simp [regroupResponses, hi]

theorem regroupResponses_cons_other (hi : unitOf i ≠ some .r) :
    regroupResponses (i :: is) (r :: rs) = regroupResponses is rs := by
  simp [regroupResponses, hi]

/-- A command that is not the R-unit's keeps the R-unit's registers (R10). -/
theorem sameR_of_exec_other (hi : unitOf i ≠ some .r) (ht : exec i s = .next t) : s.sameR t := by
  rcases hunit : unitOf i with _ | _ | _
  · obtain ⟨c, d, hexec⟩ := exec_of_unitOf_none hunit s
    cases hexec.symm.trans ht
    exact sameR_refl s
  · exact sameOther_of_exec hunit ht
  · exact absurd hunit hi

/-- The commands `is`, run from `s`, end in `t` with the responses `rs`; their R-unit commands alone, run from `s'`, end in
`t'` with the same R-unit and the same responses. -/
structure RunBeside (is : List Instr) (s s' t t' : State) (rs : List Response) : Prop where
  run : runAll s = .next t
  output : t.output = s.output ++ rs
  length : rs.length = is.length
  alone : runAll s' = .next t'
  outputAlone : t'.output = s'.output ++ regroupResponses is rs
  same : t.sameR t'

variable {s' t' u' : State}

theorem RunBeside.nil (hin : s.input = []) (hin' : s'.input = []) (h : s.sameR s') : RunBeside [] s s' s s' [] where
  run := by rw [runAll, hin]; rfl
  output := (List.append_nil _).symm
  length := rfl
  alone := by rw [runAll, hin']; rfl
  outputAlone := (List.append_nil _).symm
  same := h

/-- An R-unit command in front of both runs, answered alike. -/
theorem RunBeside.cons_r (hi : unitOf i = some .r) (hrun : runAll s = runAll u) (hr : u.output = s.output ++ [r])
    (hrun' : runAll s' = runAll u') (hr' : u'.output = s'.output ++ [r]) (h : RunBeside is u u' t t' rs) :
    RunBeside (i :: is) s s' t t' (r :: rs) where
  run := hrun.trans h.run
  output := by simp [h.output, hr]
  length := congrArg Nat.succ h.length
  alone := hrun'.trans h.alone
  outputAlone := by simp [regroupResponses_cons_r hi, h.outputAlone, hr']
  same := h.same

/-- Another command in front of the one run. -/
theorem RunBeside.cons_other (hi : unitOf i ≠ some .r) (hrun : runAll s = runAll u) (hr : u.output = s.output ++ [r])
    (h : RunBeside is u s' t t' rs) : RunBeside (i :: is) s s' t t' (r :: rs) where
  run := hrun.trans h.run
  output := by simp [h.output, hr]
  length := congrArg Nat.succ h.length
  alone := h.alone
  outputAlone := by rw [regroupResponses_cons_other hi, h.outputAlone]
  same := h.same

/-- From states that agree on the R-unit, the commands between those of the R-unit make no difference to it. -/
theorem exists_runBeside (his : ∀ i ∈ is, i.wf = true) (h : AgreeOn .r s s') (hin : s.input = eventsOf is)
    (hin' : s'.input = eventsOf (regroupPart is)) : ∃ t t' rs, RunBeside is s s' t t' rs := by
  induction is generalizing s s' with
  | nil => exact ⟨s, s', [], .nil hin hin' h.sameR⟩
  | cons i is ih =>
    obtain ⟨hwf, his⟩ := List.forall_mem_cons.1 his
    obtain ⟨u, r, hu, hcfg, hinput, hr⟩ := exec_cases i { s with input := eventsOf is }
    have hrun := runAll_command hin hwf hu
    by_cases hi : unitOf i = some .r
    · rw [regroupPart_cons_r hi] at hin'
      obtain ⟨u', r', hu', hcfg', hinput', -⟩ := exec_cases i { s' with input := eventsOf (regroupPart is) }
      obtain ⟨hown, -, -, q, hq, hq'⟩ := localStep_exec (s := { s with input := eventsOf is })
        (s' := { s' with input := eventsOf (regroupPart is) }) hi h hu hu'
      have hcfgs : u.cfg = u'.cfg := hcfg.trans (h.cfg.trans hcfg'.symm)
      obtain ⟨t, t', rs, hrest⟩ := ih his ⟨hcfgs, hown⟩ hinput hinput'
      exact ⟨t, t', q :: rs, hrest.cons_r hi hrun hq (runAll_command hin' hwf hu') hq'⟩
    · rw [regroupPart_cons_other hi] at hin'
      have hkept : State.sameR { s with input := eventsOf is } u := sameR_of_exec_other hi hu
      have hsame : u.sameR s' := sameR_trans (sameR_symm hkept) h.sameR
      obtain ⟨t, t', rs, hrest⟩ := ih his ⟨hcfg.trans h.cfg, hsame⟩ hinput hin'
      exact ⟨t, t', r :: rs, hrest.cons_other hi hrun hr⟩

end

/-! ### How a stream ends -/

section
variable {d : Dir} {given : List Byte} {rs : List Response} {s t t' : State} {res : Except Cause (List Byte)}

theorem Ready.of_sameR : t.sameR t' → Ready d t' → Ready d t
  | ⟨hacc, hbits, hdir, hfail, hcause⟩, ⟨hacc', hbits', hfail', hcause', hdir'⟩ =>
    ⟨hacc.trans hacc', hbits.trans hbits', hfail.trans hfail', hcause.trans hcause', hdir.trans hdir'⟩

/-- The end of a conversion is told by the R-unit's registers alone. -/
theorem ConversionEnds.of_sameR (hsame : t.sameR t') (h : ConversionEnds d given rs t' res) :
    ConversionEnds d given rs t res := by
  cases res with
  | ok y =>
    obtain ⟨hok, hunits, hready⟩ := h
    exact ⟨hok, hunits, hready.of_sameR hsame⟩
  | error e =>
    obtain ⟨hcauses, hfail, hcause, hdir⟩ := h
    obtain ⟨-, -, hdir', hfail', hcause'⟩ := hsame
    exact ⟨hcauses, hfail'.trans hfail, hcause'.trans hcause, hdir'.trans hdir⟩

/-- A stream ends the conversion that its R-unit commands alone end. -/
theorem exists_conversionEnds {is : List Instr} (his : ∀ i ∈ is, i.wf = true) (hin : s.input = eventsOf is)
    (h : Converts d given { s with input := eventsOf (regroupPart is) } res) :
    ∃ t rs, runAll s = .next t ∧ t.output = s.output ++ rs ∧ rs.length = is.length ∧
      ConversionEnds d given (regroupResponses is rs) t res := by
  obtain ⟨t, t', rs, hbeside⟩ :=
    exists_runBeside (s := s) (s' := { s with input := eventsOf (regroupPart is) }) his ⟨rfl, sameR_refl s⟩ hin rfl
  obtain ⟨t'', rs', hrun, hends⟩ := h
  obtain rfl : t' = t'' := Host.Outcome.next.inj (hbeside.alone.symm.trans hrun.run)
  obtain rfl : regroupResponses is rs = rs' := List.append_cancel_left (hbeside.outputAlone.symm.trans hrun.output)
  exact ⟨t, rs, hbeside.run, hbeside.output, hbeside.length, hends.of_sameR hbeside.same⟩

/-! ### RINIT and RSEQ -/

/-- `RINIT` leaves the unit ready, from any state (R88). -/
theorem Converts.rinit {x : List Byte} (hin : s.input = eventsOf (convertSeq d x))
    (h : ∀ u : State, Ready d u → u.cfg = s.cfg → u.input = eventsOf (rSeq x) → Converts d [] u res) :
    Converts d [] s res :=
  .cons hin rfl rfl ⟨_, rfl, rfl, units_none _ _⟩ (h _ ⟨rfl, rfl, rfl, rfl, rfl⟩ rfl rfl)

theorem converts_to_symbols {x : List Byte} (hin : s.input = eventsOf (convertSeq .eightToFive x)) :
    Converts .eightToFive [] s (.ok ((regroup8to5 x).map symByte)) :=
  .rinit hin fun _ hready _ hin => hready.tracks.converts_to_symbols hin

theorem converts_to_bytes {x : List Byte} (hin : s.input = eventsOf (convertSeq .fiveToEight x)) :
    Converts .fiveToEight [] s (regroup5to8 s.cfg.strictPad x) :=
  .rinit hin fun _ hready hcfg hin => by
    rw [regroup5to8_eq_bind, ← hcfg]
    exact hready.tracks.converts_to_bytes hin

end

/-! ### The obligations -/

/-- Settles O54: the R-unit commands alone give the symbols of R85, and the others do not matter. -/
theorem convertToSymbolsStream : Obligations.ConvertToSymbolsStream := by
  intro is x s his hin hpart
  obtain ⟨t, rs, ht, hout, hlength, hok, hunits, hready⟩ :=
    exists_conversionEnds his hin (converts_to_symbols (congrArg eventsOf hpart))
  exact ⟨t, rs, ht, hout, hlength, hok, hunits, hready⟩

/-- Settles O55: the R-unit commands alone end as R86 does, and the others do not matter. -/
theorem convertToBytesStream : Obligations.ConvertToBytesStream := by
  intro is x s his hin hpart
  obtain ⟨t, rs, ht, hout, hlength, hends⟩ :=
    exists_conversionEnds his hin (converts_to_bytes (congrArg eventsOf hpart))
  refine ⟨t, rs, ht, hout, hlength, fun y hy => ?_, fun e he => ?_⟩
  · simp only [hy] at hends
    exact hends
  · simp only [he] at hends
    exact hends

end Sys2Proof.Machine
end

section
/-! PROOFS. The effects of the two commands of neither unit (R105, R106) and the illegal words beside theirs. -/

namespace Sys2Proof.Machine

/-! ### Illegal words -/

theorem executeWord_of_decode_error {w : Word16} (h : ∃ e, decode w = .error e) (s : State) :
    executeWord w s = .next (answerIllegal s) := by
  obtain ⟨e, he⟩ := h
  rw [executeWord, he]

/-- A word with `OPC` 0 and `OPD` not 0 is no `NOP` (R49). -/
theorem executeWord_of_nop_operand {w : Word16} (hopc : w.toNat / 4096 = 0) (hopd : w.toNat % 256 ≠ 0) (s : State) :
    executeWord w s = .next (answerIllegal s) :=
  executeWord_of_decode_error ((illegalWords.2 w).1.2 (.inr (.inr (.inl ⟨.inl hopc, hopd⟩)))) s

/-- A register number above 12, or one that does not fit in `OPD[3:0]`, makes an illegal word (R49, R106). -/
theorem executeWord_of_register_above_twelve {w : Word16} (hopc : w.toNat / 4096 = 12) (hopd : 12 < w.toNat % 256)
    (s : State) : executeWord w s = .next (answerIllegal s) :=
  executeWord_of_decode_error ((illegalWords.2 w).1.2 (.inr (.inr (.inr (.inr ⟨hopc, hopd⟩))))) s

/-! ### Reading a register -/

section
variable {s : State} {n : BitVec 4} {v : Word30}

theorem exists_readReg_of_le (s : State) (hn : n.toNat ≤ 12) : ∃ v, readReg s n = some v :=
  Option.isSome_iff_exists.1 ((readReg_isSome s n).trans (decide_eq_true hn))

theorem exec_rdreg (hv : readReg s n = some v) : exec (.rdreg n) s = .next (respond .ok 0#2 v s) := by
  rw [exec, execRdreg, hv]

/-- What is read under a number is what the table has for it (R31). -/
theorem eq_of_readReg (hv : readReg s n = some v) {k : BitVec 4} {x : Word30} (hx : readReg s k = some x) (h : n = k) :
    v = x := by
  subst h
  exact Option.some.inj (hv.symm.trans hx)

end

theorem encode_rdreg (n : BitVec 4) : encode (.rdreg n) = BitVec.ofNat 16 (0xC000 + n.toNat) := by
  rw [encode, assembleWord_eq_ofNat, BitVec.toNat_setWidth_of_le (by decide)]
  rfl

theorem cfgWord_eq (c : Config) : c.cfgWord = if c.strictPad then 1#30 else 0#30 := by
  rw [Config.cfgWord]
  cases c.strictPad <;> rfl

/-! ### The obligations -/

/-- Settles O15: a word with `OPC` and `RSV` 0 is its operand, so any operand but 0 is one `NOP` may not have. -/
theorem nopEffect : Obligations.NopEffect := by
  refine fun s => ⟨rfl, rfl, fun v hv => ?_⟩
  have hword : (0x00#8 ++ v).toNat = v.toNat := by
    rw [toNat_append_eq]
    simp
  have hne : v.toNat ≠ 0 := fun h => hv (BitVec.eq_of_toNat_eq h)
  exact executeWord_of_nop_operand (by omega) (by omega) s

/-- Settles O16: the numbers to 12 each name something, and the table is read at each of them. -/
theorem rdregEffect : Obligations.RdregEffect := by
  refine fun s => ⟨fun n hn => ?_, fun _ _ _ => executeWord_of_register_above_twelve (by omega) (by omega) s⟩
  obtain ⟨v, hv⟩ := exists_readReg_of_le s hn
  refine ⟨v, exec_rdreg hv, encode_rdreg n, eq_of_readReg hv rfl, eq_of_readReg hv rfl, eq_of_readReg hv rfl, ?acc,
    eq_of_readReg hv rfl, eq_of_readReg hv rfl, eq_of_readReg hv rfl, eq_of_readReg hv rfl, eq_of_readReg hv rfl,
    eq_of_readReg hv rfl, eq_of_readReg hv rfl, eq_of_readReg hv rfl, ?cfg⟩
  case acc =>
    intro h
    rw [eq_of_readReg hv rfl h, BitVec.toNat_setWidth_of_le (by decide)]
  case cfg =>
    intro h
    rw [eq_of_readReg hv rfl h, cfgWord_eq]

end Sys2Proof.Machine
end

section
/-! PROOFS. Sequences one after the other: a command does not look at the events behind it, so a run of two lists of
events is a run of the first, then one of the second. -/

namespace Sys2Proof.Machine

/-! ### The events that wait -/

section
variable {i : Instr} {s t : State}

theorem State.eq_of_same (hcfg : s.cfg = t.cfg) (hP : s.sameP t) (hR : s.sameR t) (hin : s.input = t.input)
    (hout : s.output = t.output) : s = t := by
  obtain ⟨hchk, hpfail, hpcause⟩ := hP
  obtain ⟨hacc, hbits, hdir, hrfail, hrcause⟩ := hR
  exact State.ext hcfg hchk hpfail hpcause hacc hbits hdir hrfail hrcause hin hout

/-- `NOP` and `RDREG` do the same whatever events wait. -/
theorem exec_withInput_of_unitOf_none (hi : unitOf i = none) (ht : exec i s = .next t) (l : List HostEvent) :
    exec i { s with input := l } = .next { t with input := l } := by
  cases i with
  | nop =>
    cases ht
    rfl
  | rdreg n =>
    have hread : readReg { s with input := l } n = readReg s n := rfl
    rw [exec, execRdreg] at ht ⊢
    rw [hread]
    cases hv : readReg s n with
    | none =>
      rw [hv] at ht
      cases ht
      rfl
    | some v =>
      rw [hv] at ht
      cases ht
      rfl
  | _ => cases hi

/-- A command does the same whatever events wait. -/
theorem exec_withInput (ht : exec i s = .next t) (l : List HostEvent) :
    exec i { s with input := l } = .next { t with input := l } := by
  cases hunit : unitOf i with
  | none => exact exec_withInput_of_unitOf_none hunit ht l
  | some u =>
    obtain ⟨t', -, ht', hcfg', hinput', -⟩ := exec_cases i { s with input := l }
    obtain ⟨hown, hother, -, r, hr, hr'⟩ :=
      localStep_exec (s := s) (s' := { s with input := l }) hunit ⟨rfl, AgreeOn.refl.own⟩ ht ht'
    have hother' : SameOther u { s with input := l } t' := sameOther_of_exec hunit ht'
    have hcfg : t'.cfg = t.cfg := hcfg'.trans (exec_keeps_port ht).1.symm
    have hout : t'.output = t.output := hr'.trans hr.symm
    rw [ht']
    congr 1
    cases u with
    | p => exact State.eq_of_same hcfg (sameP_symm hown) (sameR_trans (sameR_symm hother') hother) hinput' hout
    | r => exact State.eq_of_same hcfg (sameP_trans (sameP_symm hother') hother) (sameR_symm hown) hinput' hout

/-- An event does the same whatever events wait behind it. -/
theorem serve_withInput {e : HostEvent} (ht : serve e s = .next t) (l : List HostEvent) :
    serve e { s with input := l } = .next { t with input := l } := by
  cases e with
  | reset =>
    cases ht
    rfl
  | command w =>
    rw [serve, executeWord] at ht ⊢
    cases hw : decode w with
    | ok i =>
      rw [hw] at ht
      exact exec_withInput ht l
    | error e =>
      rw [hw] at ht
      cases ht
      rfl

/-! ### Runs one after the other -/

theorem step_event {e : HostEvent} {l : List HostEvent} (hin : s.input = e :: l) :
    step s = serve e { s with input := l } := by
  rw [step, takeEvent, hin]

theorem runAll_event {e : HostEvent} {l : List HostEvent} (hin : s.input = e :: l) (ht : step s = .next t)
    (hl : t.input = l) : runAll s = runAll t := by
  rw [runAll, runAll, hin, hl, List.length_cons, run_succ ht]

/-- A run of two lists of events is a run of the first, then a run of the second from where that ended. -/
theorem runAll_append {l l' : List HostEvent} (hin : s.input = l ++ l') (ht : runAll { s with input := l } = .next t) :
    runAll s = runAll { t with input := l' } := by
  induction l generalizing s with
  | nil =>
    obtain rfl : { s with input := [] } = t := Host.Outcome.next.inj ht
    rw [List.nil_append] at hin
    rw [← hin]
  | cons e l ih =>
    obtain ⟨u, hu, hul⟩ := step_completes { s with input := e :: l }
    have hserve : serve e { s with input := l } = .next u :=
      (step_event (s := { s with input := e :: l }) rfl).symm.trans hu
    have hfirst : step s = .next { u with input := l ++ l' } :=
      (step_event hin).trans (serve_withInput hserve (l ++ l'))
    have hwait : { u with input := l } = u := congrArg (fun k => { u with input := k }) hul.symm
    rw [runAll_event hin hfirst rfl]
    refine ih rfl ?_
    rw [hwait, ← ht]
    exact (runAll_event rfl hu hul).symm

theorem runAll_cfg {l : List HostEvent} (ht : runAll { s with input := l } = .next t) : t.cfg = s.cfg :=
  run_cfg (s := { s with input := l }) ht

end

theorem eventsOf_append (is js : List Instr) : eventsOf (is ++ js) = eventsOf is ++ eventsOf js := List.map_append

/-! ### The units of a list of responses -/

theorem unitsOf_append (rs rs' : List Response) : unitsOf (rs ++ rs') = unitsOf rs ++ unitsOf rs' :=
  List.flatMap_append

/-- Responses without a count give out nothing. -/
theorem unitsOf_eq_nil {rs : List Response} (h : ∀ r ∈ rs, r.cnt = 0#2) : unitsOf rs = [] :=
  List.flatMap_eq_nil_iff.2 fun r hr => by
    rw [Response.units, h r hr]
    rfl

end Sys2Proof.Machine
end

section
/-! PROOFS. Encoding and decoding with the block (R118, R119): one unit's sequence, then the other's. -/

namespace Sys2Proof.Machine

/-! ### Encoding -/

theorem symByte_lowSym {v : Byte} (hv : v.toNat ≤ 31) : symByte (lowSym v) = v :=
  BitVec.eq_of_toNat_eq <| by
    rw [symByte_toNat, lowSym_toNat]
    omega

/-- Settles O59: the conversion of R98, then the creation of R114 from where it ended. -/
theorem encodeOnBlock : Obligations.EncodeOnBlock := by
  intro h prog ver s hver hsym hin
  rw [eventsOf_append] at hin
  obtain ⟨u, rs, hrun, hok, hunits, -⟩ :=
    converts_to_symbols (s := { s with input := eventsOf (encodeRegroup prog) }) (x := prog) rfl
  have hcfg : u.cfg = s.cfg := runAll_cfg hrun.run
  have hdata : ver :: (regroup8to5 prog).map symByte = (lowSym ver :: regroup8to5 prog).map symByte := by
    rw [List.map_cons, symByte_lowSym hsym]
  rw [encodeChecksum, hdata] at hin
  obtain ⟨-, hcreate⟩ := createSequence h (lowSym ver :: regroup8to5 prog)
    { u with input := eventsOf (createSeqVersion h ((lowSym ver :: regroup8to5 prog).map symByte) ver) }
  obtain ⟨t, ht, hout⟩ := hcreate ver rfl
  rw [if_neg (by rw [hcfg]; omega), hcfg, hrun.output, List.append_assoc s.output] at hout
  refine ⟨t, _, _, (runAll_append hin hrun.run).trans ht, hout, ?_, ?_, rfl⟩
  · simpa [or_imp, forall_and] using hok
  · rw [unitsOf_append, unitsOf_eq_nil (rs := List.replicate _ _) (by simp), List.append_nil]
    exact hunits

/-! ### Decoding -/

theorem StreamFed.output_last {vs : List Sym} {is : List Instr} {s t u : State} {r : Response} (hu : StreamFed s vs is u)
    (ht : t.output = u.output ++ [r]) :
    t.output = s.output ++ (List.replicate (vs.length + 1) ⟨.ok, 0#2, 0#30⟩ ++ [r]) := by
  rw [ht, hu.output, List.append_assoc]

/-- The verifying sequence on symbols answers `OK` up to its last command, which answers `OK` exactly when the version is
in range and the checksum verifies under its variant. -/
theorem exists_versionVerified {h : List Byte} {dc : List Sym} {ver : Byte} {s : State}
    (hin : s.input = eventsOf (verifySeqVersion h (dc.map symByte) ver)) :
    ∃ (t : State) (c : Cause), runAll s = .next t ∧
      t.output = s.output ++ (List.replicate ((hrpExpand h ++ dc).length + 1) ⟨.ok, 0#2, 0#30⟩ ++ [⟨c, 0#2, 0#30⟩]) ∧
      (c = .ok ↔ ver.toNat ≤ s.cfg.versionMax ∧ checksumVerify s.cfg h dc (variantOfVersion ver) = true) := by
  obtain ⟨u, hu⟩ := exists_streamFed ((feeds_pHrp h).append (feeds_pData_symByte dc)) hin
  rcases Nat.lt_or_ge s.cfg.versionMax ver.toNat with hver | hver
  · exact ⟨_, .version, hu.last rfl (exec_pvfyv_above hu.live (hu.cfg ▸ hver)), hu.output_last rfl,
      by simp [Nat.not_le.2 hver]⟩
  · exact ⟨_, _, hu.last rfl (exec_pvfyv_le hu.live (hu.cfg ▸ hver)), hu.output_last (verify_output _ _),
      by simp [hver, hu.chk, hu.cfg, checksumVerify]⟩

theorem takeSyms_ne_error_ok {g : Regroup Byte} {x : List Byte} : takeSyms g x ≠ .error .ok := by
  induction x generalizing g with
  | nil => simp [takeSyms]
  | cons v x ih =>
    rw [takeSyms]
    split_ifs
    · simp
    · exact ih

theorem closeBytes_ne_error_ok {strict : Bool} {g : Regroup Byte} : closeBytes strict g ≠ .error .ok := by
  rw [closeBytes]
  split_ifs <;> simp

/-- A conversion fails with a failing cause. -/
theorem regroup5to8_ne_error_ok {strict : Bool} {x : List Byte} : regroup5to8 strict x ≠ .error .ok := by
  rw [regroup5to8_eq_bind]
  cases hloop : takeSyms { acc := 0, bits := 0, out := [] } x with
  | error e =>
    rintro ⟨⟩
    exact takeSyms_ne_error_ok hloop
  | ok g => exact closeBytes_ne_error_ok

/-- A conversion is answered `OK` throughout exactly when it succeeds. -/
theorem ConversionEnds.forall_ok_iff {d : Dir} {given : List Byte} {rs : List Response} {t : State}
    {res : Except Cause (List Byte)} (h : ConversionEnds d given rs t res) (hres : res ≠ .error .ok) :
    (∀ r ∈ rs, r.cause = .ok) ↔ ∃ y, res = .ok y := by
  cases res with
  | ok y =>
    obtain ⟨hok, -⟩ := h
    exact ⟨fun _ => ⟨y, rfl⟩, fun _ => hok⟩
  | error e =>
    obtain ⟨⟨n, m, hcauses⟩, -⟩ := h
    obtain ⟨r, hr, hcause⟩ : ∃ r ∈ rs, r.cause = e := List.mem_map.1 (by simp [hcauses])
    refine ⟨fun hok => absurd ?_ hres, by simp⟩
    rw [← hcause, hok r hr]

/-- The values between the version and the checksum, as symbols. -/
theorem decodeRegroup_symbols (v : Sym) (vs : List Sym) :
    decodeRegroup ((v :: vs).map symByte) = convertSeq .fiveToEight ((vs.take (vs.length + 1 - 7)).map symByte) := by
  simp [decodeRegroup, List.map_take]

/-- Settles O60: the verification of R115, then the conversion of R98 from where it ended. -/
theorem decodeOnBlock : Obligations.DecodeOnBlock := by
  intro h v vs s hin
  rw [eventsOf_append, decodeRegroup_symbols] at hin
  obtain ⟨u, c, hverify, hout, hc⟩ := exists_versionVerified
    (s := { s with input := eventsOf (decodeVerify h ((v :: vs).map symByte)) }) (ver := symByte v) rfl
  obtain ⟨t, rs, hrun, hends⟩ := converts_to_bytes
    (s := { u with input := eventsOf (convertSeq .fiveToEight ((vs.take (vs.length + 1 - 7)).map symByte)) }) rfl
  have hcfg : u.cfg = s.cfg := runAll_cfg hverify
  rw [hcfg] at hends
  rw [symByte_toNat] at hc
  refine ⟨t, _, (runAll_append hin hverify).trans hrun.run, by rw [hrun.output, hout, List.append_assoc], ?_, ?_⟩
  · rw [← hends.forall_ok_iff regroup5to8_ne_error_ok, ← and_assoc, ← hc]
    simp [or_imp, forall_and]
  · intro prog _ hprog
    rw [hprog] at hends
    obtain ⟨-, hunits, -⟩ := hends
    rw [unitsOf_append, unitsOf_eq_nil (by simp [or_imp, forall_and])]
    exact hunits

end Sys2Proof.Machine
end

section
/-! PROOFS. The surrounding codec (R126 to R147): the letter case of characters and strings, the Alphabet, the Decoder's
split, and that the Decoder takes the string of a valid Address back to the Address. -/

namespace Sys2Proof.Machine

/-! ### Letter case -/

theorem isUpper_iff {x : Byte} : isUpper x = true ↔ 0x41 ≤ x.toNat ∧ x.toNat ≤ 0x5a := by simp [isUpper]

theorem lowerChar_of_not_upper {x : Byte} (h : isUpper x = false) : lowerChar x = x := by simp [lowerChar, h]

theorem lowerChar_toNat_of_upper {x : Byte} (h : isUpper x = true) : (lowerChar x).toNat = x.toNat + 0x20 := by
  have hle := (isUpper_iff.1 h).2
  rw [lowerChar, if_pos h, BitVec.toNat_add_of_lt (by simp; omega)]
  rfl

@[simp] theorem isUpper_lowerChar (x : Byte) : isUpper (lowerChar x) = false := by
  by_cases h : isUpper x = true
  · have hx := isUpper_iff.1 h
    rw [Bool.eq_false_iff, ne_eq, isUpper_iff, lowerChar_toNat_of_upper h]
    omega
  · have hx := Bool.eq_false_of_not_eq_true h
    rw [lowerChar_of_not_upper hx, hx]

/-- Lowering a character keeps what R127 asks of a character of an hrp. -/
theorem hrpChar_lowerChar {x : Byte} (h : inHrpRange x = true ∧ x ≠ separator) :
    inHrpRange (lowerChar x) = true ∧ lowerChar x ≠ separator := by
  by_cases hup : isUpper x = true
  · have hx := isUpper_iff.1 hup
    have hlow := lowerChar_toNat_of_upper hup
    refine ⟨?_, fun he => ?_⟩
    · simp only [inHrpRange, Bool.and_eq_true, decide_eq_true_eq]
      omega
    · rw [he, show separator.toNat = 49 from rfl] at hlow
      omega
  · rwa [lowerChar_of_not_upper (Bool.eq_false_of_not_eq_true hup)]

theorem isUpper_of_mem_lowerString {s : List Byte} {x : Byte} (h : x ∈ lowerString s) : isUpper x = false := by
  obtain ⟨y, -, rfl⟩ := List.mem_map.1 h
  exact isUpper_lowerChar y

theorem lowerString_of_no_upper {s : List Byte} (h : ∀ x ∈ s, isUpper x = false) : lowerString s = s :=
  (List.map_congr_left fun x hx => lowerChar_of_not_upper (h x hx)).trans (List.map_id s)

theorem mixedCase_of_no_upper {s : List Byte} (h : ∀ x ∈ s, isUpper x = false) : mixedCase s = false := by
  have hany : s.any isUpper = false := List.any_eq_false.2 fun x hx => by simp [h x hx]
  rw [mixedCase, hany, Bool.false_and]

@[simp] theorem length_lowerString (s : List Byte) : (lowerString s).length = s.length := List.length_map _

/-! ### The Alphabet -/

theorem alphabet_nodup : alphabet.Nodup := by decide

theorem toNat_lt_length_alphabet (v : Sym) : v.toNat < alphabet.length := v.isLt

theorem charOf_eq_getElem (v : Sym) : charOf v = alphabet[v.toNat]'(toNat_lt_length_alphabet v) :=
  List.getD_eq_getElem _ _ _

theorem charOf_mem_alphabet (v : Sym) : charOf v ∈ alphabet := charOf_eq_getElem v ▸ List.getElem_mem _

theorem isUpper_charOf (v : Sym) : isUpper (charOf v) = false :=
  (by decide : ∀ x ∈ alphabet, isUpper x = false) _ (charOf_mem_alphabet v)

theorem charOf_ne_separator (v : Sym) : charOf v ≠ separator :=
  ne_of_mem_of_not_mem (charOf_mem_alphabet v) (by decide)

/-- The two mappings of R129: a character of the Alphabet stands there once. -/
@[simp] theorem valueOf_charOf (v : Sym) : valueOf (charOf v) = some v := by
  rw [valueOf, lowerChar_of_not_upper (isUpper_charOf v), if_pos (charOf_mem_alphabet v), charOf_eq_getElem,
    alphabet_nodup.idxOf_getElem, BitVec.ofNat_toNat, BitVec.setWidth_eq]

@[simp] theorem dataValues_map_charOf (vs : List Sym) : dataValues (vs.map charOf) = some vs := by
  induction vs with
  | nil => rfl
  | cons v vs ih => simp [dataValues, ih]

/-! ### The Decoder's split and its first steps -/

theorem splitLast_eq_none {d : List Byte} (h : separator ∉ d) : splitLast d = none := by
  induction d with
  | nil => rfl
  | cons x d ih =>
    obtain ⟨hx, hd⟩ := not_or.1 (List.mem_cons.not.1 h)
    simp [splitLast, ih hd, Ne.symm hx]

theorem splitLast_append {d : List Byte} (hd : separator ∉ d) (h : List Byte) :
    splitLast (h ++ separator :: d) = some (h, d) := by
  induction h with
  | nil => simp [splitLast, splitLast_eq_none hd]
  | cons x h ih => simp [splitLast, ih]

/-- The split takes nothing away but the separator (R134). -/
theorem eq_append_of_splitLast {s h d : List Byte} (hs : splitLast s = some (h, d)) : s = h ++ separator :: d := by
  induction s generalizing h with
  | nil => cases hs
  | cons x s ih =>
    rw [splitLast] at hs
    rcases hrest : splitLast s with _ | ⟨h', d'⟩
    · simp only [hrest, Option.ite_none_right_eq_some, Option.some.injEq, Prod.mk.injEq] at hs
      obtain ⟨rfl, rfl, rfl⟩ := hs
      rfl
    · simp only [hrest, Option.some.injEq, Prod.mk.injEq] at hs
      obtain ⟨rfl, rfl⟩ := hs
      rw [ih hrest, List.cons_append]

/-- Everything a success of the Decoder says (R132 to R141). -/
theorem decodeString_eq_some {c : Config} {s : List Byte} {a : Address} :
    decodeString c s = some a ↔ 8 ≤ s.length ∧ s.length ≤ 90 ∧ mixedCase s = false ∧
      ∃ h d dv, splitLast (lowerString s) = some (h, d) ∧ h ≠ [] ∧ 6 ≤ d.length ∧ h.all inHrpRange = true ∧
        dataValues d = some dv ∧ decodeValues c h dv = some a := by
  rw [decodeString]
  simp only [Option.ite_none_left_eq_some, Bool.or_eq_true, decide_eq_true_eq, not_or, Nat.not_lt, Bool.not_eq_true,
    and_assoc]
  refine and_congr_right fun _ => and_congr_right fun _ => and_congr_right fun _ => ?_
  rcases splitLast (lowerString s) with _ | ⟨h, d⟩
  · simp
  · rcases hdv : dataValues d with _ | dv <;> simp [hdv, and_assoc]

/-! ### A valid Address -/

/-- Everything R126 and R127 ask. -/
theorem Address.valid_iff {c : Config} {a : Address} :
    a.valid c = true ↔ hrpValid a.hrp = true ∧ a.hrp.length ≤ 83 ∧ encodedLength a ≤ 90 ∧
      aboveVersion c a.version = false ∧ programLengthOk a.version a.program.length = true := by
  simp [Address.valid, and_assoc]

theorem hrpValid_iff {h : List Byte} :
    hrpValid h = true ↔ h ≠ [] ∧ mixedCase h = false ∧ ∀ x ∈ h, inHrpRange x = true ∧ x ≠ separator := by
  simp [hrpValid, and_assoc]

theorem hrpValid_lowerString {h : List Byte} (hv : hrpValid h = true) : hrpValid (lowerString h) = true := by
  obtain ⟨hne, -, hall⟩ := hrpValid_iff.1 hv
  exact hrpValid_iff.2 ⟨by simpa [lowerString] using hne, mixedCase_of_no_upper fun _ => isUpper_of_mem_lowerString,
    List.forall_mem_map.2 fun x hx => hrpChar_lowerChar (hall x hx)⟩

/-- The Address with its hrp lowered, which C5 has the Decoder give. -/
def Address.lower (a : Address) : Address := { a with hrp := lowerString a.hrp }

theorem Address.valid_lower {c : Config} {a : Address} (hv : a.valid c = true) : a.lower.valid c = true := by
  rw [Address.valid_iff] at hv ⊢
  obtain ⟨hh, hrest⟩ := hv
  refine ⟨hrpValid_lowerString hh, ?_⟩
  simpa [Address.lower, encodedLength] using hrest

/-! ### The string of an Address -/

/-- The values of the string's data portion: version, program and checksum (R131). -/
def Address.symbols (c : Config) (a : Address) : List Sym :=
  (lowSym a.version :: regroup8to5 a.program) ++
    checksumCreate c (lowerString a.hrp) (lowSym a.version :: regroup8to5 a.program) (variantOfVersion a.version)

theorem Address.format_eq (c : Config) (a : Address) :
    a.format c = lowerString a.hrp ++ separator :: (a.symbols c).map charOf := by
  simp [Address.format, Address.symbols]

theorem length_checksumCreate (c : Config) (h : List Byte) (d : List Sym) (k : Variant) :
    (checksumCreate c h d k).length = 6 := rfl

theorem Address.length_symbols (c : Config) (a : Address) :
    (a.symbols c).length = (8 * a.program.length + 4) / 5 + 7 := by
  rw [Address.symbols, List.length_append, List.length_cons, length_regroup8to5, length_checksumCreate]

theorem Address.length_format (c : Config) (a : Address) : (a.format c).length = encodedLength a := by
  rw [Address.format_eq, List.length_append, List.length_cons, List.length_map, Address.length_symbols, encodedLength,
    length_lowerString]
  omega

theorem Address.isUpper_of_mem_format {c : Config} {a : Address} {x : Byte} (hx : x ∈ a.format c) :
    isUpper x = false := by
  rw [Address.format_eq, List.mem_append, List.mem_cons] at hx
  rcases hx with hx | rfl | hx
  · exact isUpper_of_mem_lowerString hx
  · rfl
  · obtain ⟨v, -, rfl⟩ := List.mem_map.1 hx
    exact isUpper_charOf v

theorem Address.splitLast_format (c : Config) (a : Address) :
    splitLast (a.format c) = some (lowerString a.hrp, (a.symbols c).map charOf) := by
  rw [Address.format_eq, splitLast_append]
  intro hmem
  obtain ⟨v, -, hv⟩ := List.mem_map.1 hmem
  exact charOf_ne_separator v hv

/-- Steps 6 to 9 on the values of a valid Address: the created checksum verifies, and the program comes back (R67, R87). -/
theorem Address.decodeValues_symbols {c : Config} {a : Address} (hv : a.valid c = true) (hsym : a.version.toNat ≤ 31) :
    decodeValues c (lowerString a.hrp) (a.symbols c) = some a.lower := by
  obtain ⟨-, -, -, hver, -⟩ := Address.valid_iff.1 hv
  refine decodeValues_eq_some.2 ⟨lowSym a.version, _, List.cons_append, ?_⟩
  rw [symByte_lowSym hsym]
  refine ⟨hver, checksumVerify_created, rfl, rfl, ?_, Address.valid_lower hv⟩
  rw [List.length_append, length_checksumCreate, List.take_left' (by omega)]
  exact regroupRoundTrip c.strictPad a.program

/-- Round-trip (R147), as C5 resolves it, for a version that is a symbol. -/
theorem decodeString_format {c : Config} {a : Address} (hv : a.valid c = true) (hsym : a.version.toNat ≤ 31) :
    decodeString c (a.format c) = some a.lower := by
  obtain ⟨hhrp, -, hlen, -, -⟩ := Address.valid_iff.1 hv
  obtain ⟨hne, -, hrange⟩ := hrpValid_iff.1 (hrpValid_lowerString hhrp)
  have hpos : 0 < a.hrp.length := length_lowerString a.hrp ▸ List.length_pos_iff.2 hne
  have hlower : lowerString (a.format c) = a.format c := lowerString_of_no_upper fun _ => Address.isUpper_of_mem_format
  refine decodeString_eq_some.2 ⟨?_, ?_, mixedCase_of_no_upper fun _ => Address.isUpper_of_mem_format,
    lowerString a.hrp, _, _, by rw [hlower, Address.splitLast_format], hne, ?_, ?_, dataValues_map_charOf _,
    Address.decodeValues_symbols hv hsym⟩
  · rw [Address.length_format, encodedLength]
    omega
  · rwa [Address.length_format]
  · rw [List.length_map, Address.length_symbols]
    omega
  · exact List.all_eq_true.2 fun x hx => (hrange x hx).1

/-! ### What the Decoder gives -/

/-- A decoded Address is valid, its hrp is lower case and its version is a symbol. -/
theorem decodeString_sound {c : Config} {s : List Byte} {a : Address} (hs : decodeString c s = some a) :
    a.valid c = true ∧ lowerString a.hrp = a.hrp ∧ a.version.toNat ≤ 31 := by
  obtain ⟨-, -, -, h, d, dv, hsplit, -, -, -, -, hdec⟩ := decodeString_eq_some.1 hs
  obtain ⟨v, -, -, -, -, rfl, hver, -, hvalid⟩ := decodeValues_eq_some.1 hdec
  have hmem : ∀ x ∈ a.hrp, x ∈ lowerString s := fun x hx =>
    eq_append_of_splitLast hsplit ▸ List.mem_append_left _ hx
  exact ⟨hvalid, lowerString_of_no_upper fun x hx => isUpper_of_mem_lowerString (hmem x hx),
    hver ▸ symByte_toNat_le v⟩

theorem Address.string_eq_format {c : Config} {a : Address} (hv : a.valid c = true) : a.string c = a.format c := by
  rw [Address.string, encodeString_eq_some.2 ⟨hv, rfl⟩, Option.getD_some]

/-- Settles O58: the string of a valid Address decodes to it up to the hrp's case (`decodeString_format`), and a decoded
Address is valid and in lower case already. -/
theorem codecRoundTrip : Obligations.CodecRoundTrip := by
  refine ⟨fun c a hmax hv => ?_, fun c a str henc => ?_, fun c str a hdec => ?_⟩
  · obtain ⟨-, -, -, hver, -⟩ := Address.valid_iff.1 hv
    have hsym : a.version.toNat ≤ 31 := (Nat.not_lt.1 (of_decide_eq_false hver)).trans hmax
    exact ⟨a.format c, encodeString_eq_some.2 ⟨hv, rfl⟩, a.length_format c, decodeString_format hv hsym⟩
  · obtain ⟨hv, rfl⟩ := encodeString_eq_some.1 henc
    obtain ⟨-, -, hlen, -, -⟩ := Address.valid_iff.1 hv
    exact ⟨hv, Address.length_format c a, (Address.length_format c a).trans_le hlen⟩
  · obtain ⟨hv, hlower, hsym⟩ := decodeString_sound hdec
    refine ⟨hv, hlower, ?_⟩
    rw [Address.string_eq_format hv, decodeString_format hv hsym, Address.lower, hlower]

end Sys2Proof.Machine
end

section
/-! PROOFS. How a command ends (R150 to R154): with the cause of R152's table and, when the cause is sticky, by failure
entry alone (R156). Said once for each operation and then for every command. -/

namespace Sys2Proof.Machine

/-- Going from `s` to `t` the command `i` ends with the cause `c`: its one response carries `c`, and with a sticky `c` it
did failure entry of its unit, which was not failed, and nothing else. -/
structure EndsWith (i : Instr) (s : State) (c : Cause) (t : State) : Prop where
  response : ∃ n d, t.output = s.output ++ [⟨c, n, d⟩]
  entry : c.sticky = true → ∃ u, unitOf i = some u ∧ s.failFlag u = false ∧ t = raiseFailure u c s

section
variable {i : Instr} {s t t' : State} {c c' : Cause} {u : PceUnit}

/-! ### The operations -/

theorem EndsWith.answer {n : BitVec 2} {d : Word30} (hc : c.sticky = false) (hout : t.output = s.output ++ [⟨c, n, d⟩]) :
    EndsWith i s c t :=
  ⟨⟨n, d, hout⟩, fun h => absurd h (by simp [hc])⟩

theorem EndsWith.raise (hi : unitOf i = some u) (hlive : s.failFlag u = false) : EndsWith i s c (raiseFailure u c s) :=
  ⟨⟨0#2, 0#30, by cases u <;> rfl⟩, fun _ => ⟨u, hi, hlive, rfl⟩⟩

/-- Two tests of one condition, in the table and in the command. -/
theorem EndsWith.ite {p p' : Prop} [Decidable p] [Decidable p'] (hp : p ↔ p') (h : EndsWith i s c t)
    (h' : EndsWith i s c' t') : EndsWith i s (if p then c else c') (if p' then t else t') := by
  by_cases hp' : p'
  · rwa [if_pos (hp.2 hp'), if_pos hp']
  · rwa [if_neg (mt hp.1 hp'), if_neg hp']

/-- A test that only the command makes: the cause is the same either way. -/
theorem EndsWith.either {p : Prop} [Decidable p] (h : EndsWith i s c t) (h' : EndsWith i s c t') :
    EndsWith i s c (if p then t else t') := by
  split
  · exact h
  · exact h'

/-- The `FAILED` test comes before every test of a data command (R154 (2)). -/
theorem endsWith_of_unlessFailed (hbody : s.failFlag u = false → EndsWith i s c t) :
    ∃ v, unlessFailed u s t = .next v ∧ EndsWith i s (if s.failFlag u then .failed else c) v := by
  rcases unlessFailed_cases u s t with ⟨hfail, h⟩ | ⟨hlive, h⟩
  · rw [if_pos hfail]
    exact ⟨_, h, .answer rfl rfl⟩
  · rw [if_neg (by simp [hlive])]
    exact ⟨_, h, hbody hlive⟩

theorem EndsWith.verify (k : Variant) (hi : unitOf i = some .p) (hlive : s.pfail = false) :
    EndsWith i s (if s.chk ≠ s.cfg.k k then .checksum else .ok) (verify k s) := by
  rw [ite_not]
  exact .ite .rfl (.answer rfl rfl) (.raise hi hlive)

theorem EndsWith.pushByte (v : Byte) : EndsWith i s .ok (pushByte v s) := .either (.answer rfl rfl) (.answer rfl rfl)

theorem EndsWith.pushSym (v : Sym) : EndsWith i s .ok (pushSym v s) := .either (.answer rfl rfl) (.answer rfl rfl)

theorem EndsWith.flushSyms : EndsWith i s .ok (flushSyms s) := .either (.answer rfl rfl) (.answer rfl rfl)

/-- `PAD_EXCESS` before `PAD_NONZERO` (R154 (4), (5)). -/
theorem EndsWith.flushBytes (hi : unitOf i = some .r) (hlive : s.rfail = false) :
    EndsWith i s
      (if s.cfg.strictPad = true ∧ 5 ≤ s.bits.toNat then .padExcess else if s.acc ≠ 0#7 then .padNonzero else .ok)
      (flushBytes s) :=
  .ite (by simp) (.raise hi hlive) (.ite .rfl (.raise hi hlive) (.answer rfl rfl))

/-! ### Every command -/

/-- A register number above 12 names nothing (R31). -/
theorem readReg_eq_none {n : BitVec 4} (s : State) (hn : ¬n.toNat ≤ 12) : readReg s n = none :=
  Option.not_isSome_iff_eq_none.1 (by simp [readReg_isSome, hn])

/-- Every command ends with the cause of R152's table (R152, R154). -/
theorem exec_endsWith (i : Instr) (s : State) : ∃ t, exec i s = .next t ∧ EndsWith i s (expectedCause i s) t := by
  cases i with
  | nop => exact ⟨_, rfl, .answer rfl rfl⟩
  | pinit => exact ⟨_, rfl, .answer rfl rfl⟩
  | psym v => exact endsWith_of_unlessFailed fun hlive => .ite (by simp [aboveSym]) (.raise rfl hlive) (.answer rfl rfl)
  | phrph c => exact endsWith_of_unlessFailed fun _ => .answer rfl rfl
  | phrpl c => exact endsWith_of_unlessFailed fun _ => .answer rfl rfl
  | pfin k => exact endsWith_of_unlessFailed fun _ => .answer rfl rfl
  | pvfy k => exact endsWith_of_unlessFailed fun hlive => .verify k rfl hlive
  | pfinv ver =>
    exact endsWith_of_unlessFailed fun hlive => .ite (by simp [aboveVersion]) (.raise rfl hlive) (.answer rfl rfl)
  | pvfyv ver =>
    exact endsWith_of_unlessFailed fun hlive => .ite (by simp [aboveVersion]) (.raise rfl hlive) (.verify _ rfl hlive)
  | rinit d => exact ⟨_, rfl, .answer rfl rfl⟩
  | rpush v =>
    refine endsWith_of_unlessFailed fun hlive => ?_
    cases s.rdir with
    | eightToFive => exact .pushByte v
    | fiveToEight => exact .ite (by simp [aboveSym]) (.raise rfl hlive) (.pushSym _)
  | rflush =>
    refine endsWith_of_unlessFailed fun hlive => ?_
    cases s.rdir with
    | eightToFive => exact .flushSyms
    | fiveToEight =>
      simp only [true_and]
      exact .flushBytes rfl hlive
  | rdreg n =>
    by_cases hn : n.toNat ≤ 12
    · obtain ⟨v, hv⟩ := exists_readReg_of_le s hn
      rw [expectedCause, if_pos hn]
      exact ⟨_, exec_rdreg hv, .answer rfl rfl⟩
    · rw [exec, execRdreg, readReg_eq_none s hn, expectedCause, if_neg hn]
      exact ⟨_, rfl, .answer rfl rfl⟩

end

/-! ### The obligations -/

/-- Settles O32: the table of R150, read cause by cause. -/
theorem causeCodes : Obligations.CauseCodes :=
  ⟨rfl, rfl, rfl, rfl, rfl, rfl, rfl, rfl, fun c => by cases c <;> decide⟩

/-- Settles O33: a command by the table (`exec_endsWith`), a word by its command or as an illegal one. -/
theorem causeOfEveryCommand : Obligations.CauseOfEveryCommand := by
  refine ⟨fun i s _ => ?_, fun w s => ?_⟩
  · obtain ⟨t, ht, ⟨n, d, hout⟩, -⟩ := exec_endsWith i s
    exact ⟨t, n, d, ht, hout⟩
  · rw [executeWord]
    cases decode w with
    | error e => exact ⟨_, _, _, rfl, rfl⟩
    | ok i =>
      obtain ⟨t, ht, ⟨n, d, hout⟩, -⟩ := exec_endsWith i s
      exact ⟨t, n, d, ht, hout⟩

/-- Settles O34: the response carries the cause the command ends with, so the command did failure entry. -/
theorem failureEntry : Obligations.FailureEntry := by
  intro i s t r ht hr hsticky
  obtain ⟨t', ht', ⟨n, d, hout⟩, hentry⟩ := exec_endsWith i s
  cases ht'.symm.trans ht
  obtain rfl : _ = r := List.singleton_inj.1 (List.append_cancel_left (hout.symm.trans hr))
  obtain ⟨u, hu, hlive, rfl⟩ := hentry hsticky
  cases u with
  | p =>
    cases List.append_cancel_left hr
    exact ⟨rfl, rfl, .inl ⟨hu, hlive, rfl⟩⟩
  | r =>
    cases List.append_cancel_left hr
    exact ⟨rfl, rfl, .inr ⟨hu, hlive, rfl⟩⟩

end Sys2Proof.Machine
end

section
/-! PROOFS. The failed state (R158, R159): a failed unit ignores its data commands, the other unit does not see the
failure, and only the unit's init command or a reset ends it. -/

namespace Sys2Proof.Machine

section
variable {i : Instr} {s t : State} {u v : PceUnit}

/-- In the failed state of its unit a data command answers `FAILED` and does nothing else (R158). -/
theorem exec_failed (hi : unitOf i = some u) (hskip : skipsFailedTest i = false) (hfail : s.failFlag u = true) :
    exec i s = .next (respond .failed 0#2 0#30 s) := by
  cases u with
  | p => exact exec_failed_p hi hskip hfail
  | r => exact exec_failed_r hi hskip hfail

/-- `NOP` and `RDREG` answer `OK` and do nothing else. -/
theorem exec_ok_of_unitOf_none (hi : unitOf i = none) (hwf : i.wf = true) (s : State) :
    ∃ d, exec i s = .next (respond .ok 0#2 d s) := by
  cases i with
  | nop => exact ⟨_, rfl⟩
  | rdreg n =>
    obtain ⟨x, hx⟩ := exists_readReg_of_le s (of_decide_eq_true hwf)
    exact ⟨x, exec_rdreg hx⟩
  | _ => cases hi

/-! ### The other unit -/

/-- The flag and the cause of a unit are no registers of the other unit. -/
theorem agreeOn_setFail (hv : v ≠ u) (f : Bool) (c : BitVec 4) : AgreeOn u s (s.setFail v f c) := by
  cases u <;> cases v
  · exact absurd rfl hv
  · exact ⟨rfl, sameP_refl s⟩
  · exact ⟨rfl, sameR_refl s⟩
  · exact absurd rfl hv

/-- What a command leaves of the other unit stays so when that unit's flag and cause are written before and after. -/
theorem SameOther.setFail (hv : v ≠ u) (h : SameOther u s t) (f : Bool) (c : BitVec 4) :
    SameOther u (s.setFail v f c) (t.setFail v f c) := by
  cases u <;> cases v
  · exact absurd rfl hv
  · obtain ⟨hacc, hbits, hdir, -⟩ := h
    exact ⟨hacc, hbits, hdir, rfl, rfl⟩
  · obtain ⟨hchk, -⟩ := h
    exact ⟨hchk, rfl, rfl⟩
  · exact absurd rfl hv

/-- A command does the same whatever the other unit's flag and cause are (R158). -/
theorem exec_setFail (hv : v ≠ u) (hi : unitOf i = some u) (ht : exec i s = .next t) (f : Bool) (c : BitVec 4) :
    exec i (s.setFail v f c) = .next (t.setFail v f c) := by
  obtain ⟨t', _, ht', hcfg', hin', -⟩ := exec_cases i (s.setFail v f c)
  obtain ⟨hown, hother, hin, r, hr, hr'⟩ := localStep_exec hi (agreeOn_setFail hv f c) ht ht'
  obtain ⟨hcfg, -⟩ := exec_keeps_port ht
  have hother' := sameOther_of_exec hi ht'
  have hset := hother.setFail hv f c
  suffices h : t' = t.setFail v f c from h ▸ ht'
  cases u <;> cases v
  · exact absurd rfl hv
  · exact State.eq_of_same (hcfg'.trans hcfg.symm) (sameP_symm hown) (sameR_trans (sameR_symm hother') hset)
      (hin'.trans hin.symm) (hr'.trans hr.symm)
  · exact State.eq_of_same (hcfg'.trans hcfg.symm) (sameP_trans (sameP_symm hother') hset) (sameR_symm hown)
      (hin'.trans hin.symm) (hr'.trans hr.symm)
  · exact absurd rfl hv

/-! ### What a failed unit keeps -/

theorem sameUnit_respond (u : PceUnit) (c : Cause) (n : BitVec 2) (d : Word30) (s : State) :
    State.sameUnit u s (respond c n d s) := by
  cases u with
  | p => exact sameP_refl s
  | r => exact sameR_refl s

theorem SameOther.sameUnit (hv : v ≠ u) (h : SameOther v s t) : State.sameUnit u s t := by
  cases u <;> cases v
  · exact absurd rfl hv
  · exact h
  · exact h
  · exact absurd rfl hv

theorem failFlag_withInput (l : List HostEvent) : ({ s with input := l } : State).failFlag u = s.failFlag u := by
  cases u <;> rfl

theorem sameUnit_withInput {l : List HostEvent} : State.sameUnit u { s with input := l } t ↔ State.sameUnit u s t := by
  cases u <;> rfl

/-- Every command but its init command keeps the registers of a failed unit. -/
theorem exec_keeps_failed (hfail : s.failFlag u = true) (hinit : unitOf i = some u → skipsFailedTest i = false)
    (ht : exec i s = .next t) : State.sameUnit u s t := by
  rcases hi : unitOf i with _ | v
  · obtain ⟨c, d, he⟩ := exec_of_unitOf_none hi s
    cases he.symm.trans ht
    exact sameUnit_respond u c 0#2 d s
  · by_cases hv : v = u
    · subst hv
      cases (exec_failed hi (hinit hi) hfail).symm.trans ht
      exact sameUnit_respond v .failed 0#2 0#30 s
    · exact (sameOther_of_exec hi ht).sameUnit hv

/-- A step that is neither a reset nor an init command of the unit keeps the registers of a failed unit (R159). -/
theorem step_keeps_failed (h : step s = .next t) (hfail : s.failFlag u = true) (hreset : s.input.head? ≠ some .reset)
    (hinit : ∀ i, unitOf i = some u → skipsFailedTest i = true → s.input.head? ≠ some (.command (encode i))) :
    State.sameUnit u s t := by
  rcases step_cases h with ⟨-, rfl⟩ | ⟨rest, hin, -⟩ | ⟨w, rest, e, -, -, rfl⟩ | ⟨w, rest, i, hin, hdec, hexec⟩
  · exact AgreeOn.refl.own
  · exact absurd (by rw [hin, List.head?_cons]) hreset
  · exact sameUnit_withInput.1 (sameUnit_respond u .illegal 0#2 0#30 _)
  · obtain ⟨-, rfl⟩ := decode_eq_ok_iff.1 hdec
    refine sameUnit_withInput.1 (exec_keeps_failed ((failFlag_withInput rest).trans hfail) (fun hi => ?_) hexec)
    exact Bool.eq_false_iff.2 fun hskip => hinit i hi hskip (by rw [hin, List.head?_cons])

end

/-! ### The init commands -/

section
variable {i : Instr} {s t : State} {w : Word16}

theorem eq_pinit_of_skipsFailedTest (hi : unitOf i = some .p) (hskip : skipsFailedTest i = true) : i = .pinit := by
  cases i with
  | pinit => rfl
  | nop | rinit d | rpush v | rflush | rdreg n => cases hi
  | _ => cases hskip

theorem exists_eq_rinit_of_skipsFailedTest (hi : unitOf i = some .r) (hskip : skipsFailedTest i = true) : ∃ d, i = .rinit d := by
  cases i with
  | rinit d => exact ⟨d, rfl⟩
  | rpush v | rflush => cases hskip
  | _ => cases hi

/-- The step of a command that is presented next. -/
theorem exists_exec_of_head (h : step s = .next t) (hin : s.input.head? = some (.command w)) (hd : decode w = .ok i) :
    ∃ rest, exec i { s with input := rest } = .next t := by
  obtain ⟨rest, hin⟩ := List.head?_eq_some_iff.1 hin
  exact ⟨rest, (step_legal hin hd).symm.trans h⟩

end

/-! ### The obligations -/

/-- Settles O7: with nothing presented a step is idle. -/
theorem stepWithoutEvent : Obligations.StepWithoutEvent := fun _ => step_idle

/-- Settles O35: the failed unit by `exec_failed`, the other one by `exec_setFail`. -/
theorem failedStateIgnores : Obligations.FailedStateIgnores := fun _ s hwf =>
  ⟨fun hi hskip hfail => exec_failed hi hskip hfail, fun hi hskip hfail => exec_failed hi hskip hfail,
    fun hi => exec_ok_of_unitOf_none hi hwf s,
    fun hi f c _ ht => exec_setFail (u := .r) (v := .p) nofun hi ht f c,
    fun hi f c _ ht => exec_setFail (u := .p) (v := .r) nofun hi ht f c⟩

/-- Settles O36: the failed unit stays by `step_keeps_failed`; a reset, an init command and an illegal word are the step
itself. -/
theorem failedStateStays : Obligations.FailedStateStays := by
  intro s t h
  refine ⟨fun hfail hreset hpinit => ?_, fun hfail hreset hrinit hrinit' => ?_, fun hin => ?_, fun hin => ?_,
    fun hin => ?_, fun w rest e hin hd => ?_⟩
  · refine step_keeps_failed (u := .p) h hfail hreset fun i hi hskip => ?_
    obtain rfl := eq_pinit_of_skipsFailedTest hi hskip
    exact hpinit
  · refine step_keeps_failed (u := .r) h hfail hreset fun i hi hskip => ?_
    obtain ⟨d, rfl⟩ := exists_eq_rinit_of_skipsFailedTest hi hskip
    cases d with
    | eightToFive => exact hrinit
    | fiveToEight => exact hrinit'
  · obtain ⟨rest, hin⟩ := List.head?_eq_some_iff.1 hin
    cases (step_reset hin).symm.trans h
    exact ⟨rfl, rfl, rfl, rfl, rfl, rfl, rfl, rfl⟩
  · obtain ⟨rest, hexec⟩ := exists_exec_of_head (i := .pinit) h hin rfl
    cases hexec
    exact ⟨rfl, rfl, rfl⟩
  · obtain ⟨d, hin⟩ : ∃ d, s.input.head? = some (.command (encode (.rinit d))) := by
      rcases hin with hin | hin
      · exact ⟨.eightToFive, hin⟩
      · exact ⟨.fiveToEight, hin⟩
    obtain ⟨rest, hexec⟩ := exists_exec_of_head h hin (decode_encode_of_wf rfl)
    cases hexec
    exact ⟨rfl, rfl, rfl, rfl⟩
  · exact Host.Outcome.next.inj (h.symm.trans (step_illegal hin hd))

end Sys2Proof.Machine
end

section
/-! PROOFS. Reset and hazards (R170): the reset event as one step. -/

namespace Sys2Proof.Machine

/-- Settles O2: the step is `resetBlock` with the event taken (`step_reset`), whose fields are those of R26's table. -/
theorem resetEvent : Obligations.ResetEvent := fun _ _ => step_reset

end Sys2Proof.Machine
end
